-- ==== Sys2Proof/Config.lean ====
section
/-! DEFINITION. The implementation parameters of rule R6 (00_scope.md), and the three labels the spec leaves open. -/

namespace Sys2Proof.Config

/-- Width of the pattern and of every window compared with it (R6). -/
abbrev PATTERN_W : Nat := 3

/-- The pattern "1,1,0": bit 2 is the earliest bit in stream order (R6, R7, R31). A constant, not a register. -/
abbrev PATTERN : BitVec 3 := 0b110#3

/-- Width of one input sample (R6). -/
abbrev SAMPLE_W : Nat := 8

/-- Bits of the previous sample that the `SW` and `LUT` units carry (R6, D2). -/
abbrev CARRY_W : Nat := 2

/-- Width of the combined window (R6). -/
abbrev WINDOW_W : Nat := 10

/-- Width of the value of step 1 of the sliding-window algorithm (R6, R63). -/
abbrev COMBINED_W : Nat := 16

/-- Windows examined per sample: offsets 7 down to 0 (R6). -/
abbrev N_OFFSETS : Nat := 8

/-- States of the `FSM` unit (R6). -/
abbrev FSM_STATES : Nat := 3

/-- Bits that encode the `FSM` state (R6, D3). -/
abbrev STATE_W : Nat := 2

/-- Entries of the lookup table (R6, R33). -/
abbrev ROM_DEPTH : Nat := 1024

/-- Address width of the lookup table (R6). -/
abbrev ROM_ADDR_W : Nat := 10

/-- Width of one lookup-table entry (R6, D6). -/
abbrev ROM_DATA_W : Nat := 4

/-- Width of the per-call result (R6, D6). -/
abbrev COUNT_W : Nat := 4

/-- Number of matcher units (R6). -/
abbrev N_UNITS : Nat := 3

/-- Width of each running total: `none` is the unbounded total the model takes (R6, R88, D5), `some w` a finite
realisation of `w` bits. The operations below take the width as an argument, so that claims about a finite
realisation can be stated; the machine itself runs at this value. -/
abbrev TOTAL_W : Option Nat := none

/-- The three labels `name()` returns: constants of any text, pairwise distinct (R32, D13). The default values only
show Lean that the type is inhabited. -/
structure Labels where
  fsm : String := "0"
  sw : String := "1"
  lut : String := "2"
  distinct : fsm ≠ sw ∧ fsm ≠ lut ∧ sw ≠ lut := by decide
deriving Inhabited

/-- `NAME_FSM`, `NAME_SW` and `NAME_LUT`: OPEN parameters (R32, R84, U5). No body: nothing can prove a text of them. -/
opaque labels : Labels

end Sys2Proof.Config
end

