-- ==== Sys2Proof/Word.lean ====
section
/-! DEFINITION. The bit vectors of the block: one abbreviation for each format of rule R60 (30_encoding.md). All are
unsigned and bit 0 is the least significant bit (R8, R9). -/

namespace Sys2Proof

/-- `SAMPLE`: one input byte (R61). -/
abbrev Sample := BitVec 8

/-- `W3`: a 3-bit window or the pattern; bit 2 is the earliest stream bit, bit 0 the closing bit (R62). -/
abbrev Window3 := BitVec 3

/-- `COMBINED16`: previous sample at 15:8, current sample at 7:0 (R63). -/
abbrev Combined16 := BitVec 16

/-- `WINDOW10`: carry at 9:8, current sample at 7:0; also the ROM address (R64). -/
abbrev Window10 := BitVec 10

/-- The two bits of the previous sample that the `SW` and `LUT` units carry (R24, R26). -/
abbrev Carry := BitVec 2

/-- `STATE2`: the encoding of `FSM.STATE` (R65). -/
abbrev State2 := BitVec 2

/-- `FSMT`: state at 2:1, bit at 0 (R66). -/
abbrev FsmtWord := BitVec 3

/-- `COUNT4`: a per-call match count or a ROM entry (R67). -/
abbrev Count := BitVec 4

/-- `CMD`: valid at 8, data at 7:0 (R68). -/
abbrev CmdWord := BitVec 9

end Sys2Proof
end

