-- ==== Sys2Proof/Syntax.lean ====
section
/-! DEFINITION. The operations of the block, one constructor for each row of spec/opcode_table.json, and the encoded
forms in which they are presented to it (rules R12, R68, R73, R75). -/

namespace Sys2Proof

/-- The three matcher units, a closed set (R2), in the order of their numbers 0, 1, 2 (R32). -/
inductive MatcherUnit where
  | fsm
  | sw
  | lut
deriving DecidableEq, Repr

/-- The number of a unit (R32). -/
def MatcherUnit.number : MatcherUnit → Nat
  | .fsm => 0
  | .sw => 1
  | .lut => 2

/-- The automaton positions 0, 1 and 2 (R22). Three values, so that the reserved code `0b11` cannot be held (R73, D4). -/
inductive FsmState where
  | s0
  | s1
  | s2
deriving DecidableEq, Repr

/-- One constructor per row of spec/opcode_table.json. -/
inductive Instr where
  /-- `PROCESS(d)`: every unit consumes the sample `d` (R81). -/
  | process (d : Sample)
  /-- `IDLE`: a batch of zero bytes (R83). -/
  | idle
  /-- `RESET`: construction of the three units (R180). -/
  | reset
  /-- `TOTAL(U)`: read of a running total (R85). -/
  | total (u : MatcherUnit)
  /-- `NAME(U)`: read of a label (R84). -/
  | name (u : MatcherUnit)
  /-- `T00`: state 0, bit 0 (R101). -/
  | t00
  /-- `T01`: state 0, bit 1 (R102). -/
  | t01
  /-- `T10`: state 1, bit 0 (R103). -/
  | t10
  /-- `T11`: state 1, bit 1 (R104). -/
  | t11
  /-- `T20`: state 2, bit 0 (R106). -/
  | t20
  /-- `T21`: state 2, bit 1 (R105). -/
  | t21
  /-- `RESERVED_FSMT`: an `FSMT` value whose state field is the reserved code `0b11` (R73). -/
  | reservedFsmt (b : Bool)
  /-- `SW_COMPARE`: one window compared with the pattern (R123). -/
  | swCompare (w : Window3)
  /-- `LUT_LOOKUP`: one ROM entry read at the address `{carry, cur}` (R147). -/
  | lutLookup (carry : Carry) (cur : Sample)
deriving DecidableEq, Repr

/-- What stands at one of the block's decode points: the bus with its separate reset input (R68, R181), the two
read ports, which have no encoding (R84, R85), and the three internal decode points (R62, R64, R66). Each field has
exactly its format's width, so every value is a legal one (R74). -/
inductive Encoding where
  | bus (rst : Bool) (cmd : CmdWord)
  | totalPort (u : MatcherUnit)
  | namePort (u : MatcherUnit)
  | fsmt (w : FsmtWord)
  | window (w : Window3)
  | romAddress (a : Window10)
deriving DecidableEq, Repr

/-- One line of a run (R75): an encoded operation, or `BIT b`, one stream bit for the `FSM` unit alone, whose `FSMT`
value the unit completes with its own state (R66, R75). -/
inductive Event where
  | present (e : Encoding)
  | bit (b : Bool)
deriving DecidableEq, Repr

end Sys2Proof
end

