-- ==== Sys2Proof/WellFormed.lean ====
section
/-! DEFINITION. The check an instruction must pass to be one of the block's operations. Widths and unit numbers are
in the types of Syntax.lean; what is left is the one reserved encoding of the block (rules R73, R74). -/

namespace Sys2Proof

/-- `STATE2 = 0b11` is the only reserved encoding (R74): an instruction that carries it is no operation of the block. -/
def Instr.wellFormed : Instr → Bool
  | .process _ => true
  | .idle => true
  | .reset => true
  | .total _ => true
  | .name _ => true
  | .t00 => true
  | .t01 => true
  | .t10 => true
  | .t11 => true
  | .t20 => true
  | .t21 => true
  | .reservedFsmt _ => false
  | .swCompare _ => true
  | .lutLookup _ _ => true

end Sys2Proof
end

