-- ==== Sys2Proof/Decode.lean ====
section
/-! DEFINITION. The decoder, the encoder, and the same two over whole bytes (rules R60 to R75 of 30_encoding.md). -/

namespace Sys2Proof

/-! ## Fields -/

/-- `STATE2`: `0b00`, `0b01`, `0b10` are the states 0, 1, 2 (R65). -/
def encodeState : FsmState → State2
  | .s0 => 0b00#2
  | .s1 => 0b01#2
  | .s2 => 0b10#2

/-- The state a `STATE2` code stands for; `0b11` is not a state (R65, R73). -/
def decodeState (c : State2) : Option FsmState :=
  if c = 0b00#2 then some .s0
  else if c = 0b01#2 then some .s1
  else if c = 0b10#2 then some .s2
  else none

/-- `FSMT = {s, b}`: the present state at 2:1 and the bit consumed at 0 (R66). -/
def fsmtWord (st : FsmState) (b : Bool) : FsmtWord := encodeState st ++ BitVec.ofBool b

/-- The state field of an `FSMT` value (R66). -/
def fsmtState (w : FsmtWord) : State2 := w.extractLsb' 1 2

/-- `CMD = {valid, data}` (R68). -/
def cmdWord (valid : Bool) (data : Sample) : CmdWord := BitVec.ofBool valid ++ data

/-! ## The decoder -/

/-- `CMD`: `1dddddddd` is `PROCESS(d)`, `0xxxxxxxx` is `IDLE` and its data is ignored (R73). -/
def decodeCmd (w : CmdWord) : Instr :=
  if w.getLsbD 8 then .process (w.extractLsb' 0 8) else .idle

/-- `FSMT`: the six transitions and the two reserved rows (R73). -/
def decodeFsmt (w : FsmtWord) : Instr :=
  match decodeState (fsmtState w), w.getLsbD 0 with
  | some .s0, false => .t00
  | some .s0, true => .t01
  | some .s1, false => .t10
  | some .s1, true => .t11
  | some .s2, false => .t20
  | some .s2, true => .t21
  | none, b => .reservedFsmt b

/-- The decoder, total on every encoding. `RESET` overrides the `CMD` presented with it (R181); every window is a
legal comparand and every 10-bit value a legal address (R73, R74). -/
def decode : Encoding → Instr
  | .bus true _ => .reset
  | .bus false w => decodeCmd w
  | .totalPort u => .total u
  | .namePort u => .name u
  | .fsmt w => decodeFsmt w
  | .window w => .swCompare w
  | .romAddress a => .lutLookup (a.extractLsb' 8 2) (a.extractLsb' 0 8)

/-! ## The encoder -/

/-- The encoding of an instruction. The ignored data of `IDLE` and the `CMD` under `RESET` are written as zeros (R75). -/
def encode : Instr → Encoding
  | .process d => .bus false (cmdWord true d)
  | .idle => .bus false (cmdWord false 0#8)
  | .reset => .bus true (cmdWord false 0#8)
  | .total u => .totalPort u
  | .name u => .namePort u
  | .t00 => .fsmt 0b000#3
  | .t01 => .fsmt 0b001#3
  | .t10 => .fsmt 0b010#3
  | .t11 => .fsmt 0b011#3
  | .t20 => .fsmt 0b100#3
  | .t21 => .fsmt 0b101#3
  | .reservedFsmt b => .fsmt (0b11#2 ++ BitVec.ofBool b)
  | .swCompare w => .window w
  | .lutLookup carry cur => .romAddress (carry ++ cur)

/-! ## Words in whole bytes

The block's words arrive in parallel, so the spec gives no byte order. The bytes below follow the opcode table's
numbering: the first byte holds bits 7:0 (DESIGN CHOICE, log entry 9). -/

/-- The formats of the opcode table that have bits (R60). A word does not say its own format: it is the decode point
at which it stands that does. -/
inductive Format where
  | cmd
  | fsmt
  | w3
  | window10
deriving DecidableEq, Repr

/-- The width of a format (R60). -/
def Format.width : Format → Nat
  | .cmd => 9
  | .fsmt => 3
  | .w3 => 3
  | .window10 => 10

/-- Whole bytes that hold a word of the format. -/
def Format.bytes (f : Format) : Nat := (f.width + 7) / 8

/-- Why a list of bytes is no word of a format. -/
inductive Reject where
  /-- Not as many bytes as the format's word takes. -/
  | wrongLength
  /-- A bit above the format's width is set. -/
  | bitsAboveFormat
deriving DecidableEq, Repr

/-- The number a list of bytes spells, the first byte lowest. -/
def natOfBytes : List (BitVec 8) → Nat
  | [] => 0
  | b :: bs => b.toNat + 256 * natOfBytes bs

/-- The lowest `k` bytes of a number, the lowest first. -/
def bytesOfNat : Nat → Nat → List (BitVec 8)
  | 0, _ => []
  | k + 1, n => BitVec.ofNat 8 n :: bytesOfNat k (n / 256)

/-- The encoding whose word is the number `n`, at the decode point of the format. A `CMD` word stands on the bus with
the reset input released. -/
def encodingOfNat (f : Format) (n : Nat) : Encoding :=
  match f with
  | .cmd => .bus false (BitVec.ofNat 9 n)
  | .fsmt => .fsmt (BitVec.ofNat 3 n)
  | .w3 => .window (BitVec.ofNat 3 n)
  | .window10 => .romAddress (BitVec.ofNat 10 n)

/-- The encoding that a list of bytes holds, or why it holds none. -/
def encodingOfBytes (f : Format) (bs : List (BitVec 8)) : Except Reject Encoding :=
  if bs.length ≠ f.bytes then .error .wrongLength
  else if 2 ^ f.width ≤ natOfBytes bs then .error .bitsAboveFormat
  else .ok (encodingOfNat f (natOfBytes bs))

/-- The decoder over bytes: total, and a word with a bit above its format is rejected by name. -/
def decodeBytes (f : Format) (bs : List (BitVec 8)) : Except Reject Instr :=
  match encodingOfBytes f bs with
  | .ok e => .ok (decode e)
  | .error r => .error r

/-- The format and the word of an encoding that has bits; none for the reset input and the read ports (R73). -/
def Encoding.word : Encoding → Option (Format × Nat)
  | .bus false w => some (.cmd, w.toNat)
  | .bus true _ => none
  | .totalPort _ => none
  | .namePort _ => none
  | .fsmt w => some (.fsmt, w.toNat)
  | .window w => some (.w3, w.toNat)
  | .romAddress a => some (.window10, a.toNat)

/-- The encoder over bytes: the format and the bytes of an instruction whose table row has bits. -/
def encodeBytes (i : Instr) : Option (Format × List (BitVec 8)) :=
  match (encode i).word with
  | some (f, n) => some (f, bytesOfNat f.bytes n)
  | none => none

/-! ## Words as the opcode table numbers them -/

/-- The format of a table word that comes without its decode point. One byte is an `FSMT` value, but for 6, which is
read as the comparand row of `SW_COMPARE` (`RESERVED_FSMT` is then reached by 7); two bytes are a `CMD` word, and from
0x200 up, where no `CMD` word is, a ROM address (DESIGN CHOICE, log entry 9). -/
def tableFormat (nbits w : Nat) : Option Format :=
  if nbits = 0 then none
  else if nbits ≤ 8 then some (if w = 6 then .w3 else .fsmt)
  else if nbits ≤ 16 then some (if w < 512 then .cmd else .window10)
  else none

/-- The encoding a table word holds. -/
def tableEncoding (nbits w : Nat) : Option Encoding :=
  match tableFormat nbits w with
  | none => none
  | some f =>
    match encodingOfBytes f (bytesOfNat f.bytes w) with
    | .ok e => if w < 2 ^ f.width then some e else none
    | .error _ => none

/-- The instruction the decoder reads from a table word; `none` where it refuses. -/
def decodeTableWord (nbits w : Nat) : Option Instr :=
  match tableEncoding nbits w with
  | some e => some (decode e)
  | none => none

end Sys2Proof
end

