-- ==== Sys2Proof/Machine/Operands.lean ====
section
/-! DEFINITION. Operand forms: how every field of every format is assembled and taken apart (rules R60 to R72). -/

namespace Sys2Proof.Machine

/-- The offsets of the eight windows, in stream order (R69, R122). -/
def offsets : List Nat := [7, 6, 5, 4, 3, 2, 1, 0]

/-- The bits of a sample in stream order: bit 7 first, bit 0 last (R8, R41). -/
def sampleBits (d : Sample) : List Bool := offsets.map d.getLsbD

/-- `COMBINED16`: previous sample high, current sample low (R63, R121). -/
def combined16 (previous current : Sample) : Combined16 :=
  (previous.setWidth 16 <<< 8) ||| current.setWidth 16

/-- `WINDOW10 = {carry, d}` (R64, R121). -/
def window10 (carry : Carry) (d : Sample) : Window10 := carry ++ d

/-- The window at an offset: shift right by the offset, mask the low 3 bits (R69, R122). -/
def windowAt {n : Nat} (v : BitVec n) (offset : Nat) : Window3 :=
  ((v >>> offset) &&& BitVec.ofNat n 0b111).setWidth 3

/-- The index `((previous << 8) | current) & 0x3FF` (R70, R146). -/
def romIndex (previous current : Sample) : Window10 :=
  (combined16 previous current &&& 0x3FF#16).setWidth 10

/-- The new carry after a sample: its bits 1:0 (R72, R125, R148). -/
def carryOf (d : Sample) : Carry := d.extractLsb' 0 2

/-- The first synthetic sample of table construction: the high portion of an index (R71). -/
def indexHigh (a : Window10) : Sample := (a >>> 8).setWidth 8

/-- The second synthetic sample of table construction: the low 8 bits of an index (R71). -/
def indexLow (a : Window10) : Sample := (a &&& 0xFF#10).setWidth 8

/-- The carry field of a `WINDOW10` value (R64). -/
def windowCarry (a : Window10) : Carry := a.extractLsb' 8 2

/-- The current-sample field of a `WINDOW10` value (R64). -/
def windowSample (a : Window10) : Sample := a.extractLsb' 0 8

end Sys2Proof.Machine
end

