-- ==== Sys2Proof/Machine/Flags.lean ====
section
/-! DEFINITION. The transient match bits and their count. The block stores no flag (rule R30): these exist inside one
operation only. -/

namespace Sys2Proof.Machine

/-- The match bit of one window: 1 when all three bits agree with the pattern (R123). -/
def matchBit (pattern w : Window3) : Bool := w == pattern

/-- The match vector `M[7:0]` of a combined window: bit `i` is the match bit of the window at offset `i` (R123). -/
def matchVector (pattern : Window3) (v : Window10) : BitVec 8 :=
  BitVec.ofBoolListBE (offsets.map fun i => matchBit pattern (windowAt v i))

/-- The number of 1 bits of the match vector (R9, R124). -/
def popcount (m : BitVec 8) : Nat := offsets.countP m.getLsbD

/-- A count in format `COUNT4` (R67). At most eight windows are counted, so nothing is cut off (D6). -/
def count4 (n : Nat) : Count := BitVec.ofNat 4 n

end Sys2Proof.Machine
end

