-- ==== Sys2Proof/Machine/State.lean ====
section
/-! DEFINITION. The state of the block: the six registers of rule R21 (10_state.md), and beside them the two fields of
the model's own that stand for the environment: the events still to come and what the outputs carry. -/

namespace Sys2Proof.Machine

/-- The registers of the state-machine matcher (R22, R23). -/
structure FsmUnit where
  /-- `FSM.STATE`. -/
  state : FsmState
  /-- `FSM.TOTAL`. -/
  total : Nat
deriving DecidableEq, Repr

/-- The registers of the sliding-window matcher (R24, R25). -/
structure SwUnit where
  /-- `SW.CARRY`: bits 1:0 of the previous sample, bit 1 the earlier. -/
  carry : Carry
  /-- `SW.TOTAL`. -/
  total : Nat
deriving DecidableEq, Repr

/-- The registers of the lookup-table matcher (R26, R27). The ROM is a constant, not state (R15, R33). -/
structure LutUnit where
  /-- `LUT.CARRY`: as `SW.CARRY`. -/
  carry : Carry
  /-- `LUT.TOTAL`. -/
  total : Nat
deriving DecidableEq, Repr

/-- What one event returns. -/
inductive Response where
  /-- `RESET` returns nothing (R180). -/
  | nothing
  /-- The results `n_FSM`, `n_SW`, `n_LUT` of `PROCESS`, zeros for `IDLE` (R81, R83, D7). -/
  | counts (fsm sw lut : Count)
  /-- The total `TOTAL(U)` returns (R85). -/
  | total (n : Nat)
  /-- The label `NAME(U)` returns (R84). -/
  | label (text : String)
  /-- The match output `m` of one transition (R100). -/
  | transition (m : Bool)
  /-- The match bit of one window (R123). -/
  | compare (m : Bool)
  /-- The entry one lookup reads (R147). -/
  | entry (n : Count)
deriving DecidableEq, Repr

/-- The state of the block. -/
structure State where
  /-- Unit `FSM`. -/
  fsm : FsmUnit
  /-- Unit `SW`. -/
  sw : SwUnit
  /-- Unit `LUT`. -/
  lut : LutUnit
  /-- The model's own: the events the byte source and the result reporter still present, the next one first
  (R17, R47; DESIGN CHOICE, log entry 1). -/
  pending : List Event
  /-- The model's own: what the outputs carry for the event just taken. No operation reads it; it is no register of
  the block (R189; DESIGN CHOICE, log entry 2). -/
  response : Response
deriving DecidableEq, Repr

/-- The state right after reset: rule R37. Nothing is pending and the outputs carry nothing. -/
def State.reset : State where
  fsm := { state := .s0, total := 0 }
  sw := { carry := 0b00#2, total := 0 }
  lut := { carry := 0b00#2, total := 0 }
  pending := []
  response := .nothing

/-- Why a step stops. The hardware raises no exception (R160). -/
inductive Fault where
  /-- A running total would pass `2^TOTAL_W - 1` in a realisation whose totals are finite (R88, R166 case b). Raised by
  `PROCESS` at a finite width only, so never at the width this model runs at. Safe: the spec gives no value there. -/
  | totalOverflow
deriving DecidableEq, Repr

/-- Why an instruction has no next state. -/
inductive Refusal where
  /-- The instruction has no meaning in this model. Raised by a refused arm of `exec` only; no arm is refused. Safe. -/
  | notModelled (mnemonic : String)
  /-- The reserved code `STATE2 = 0b11` has no transition (R73, D4). Raised by `RESERVED_FSMT`. Safe. -/
  | reservedState
deriving DecidableEq, Repr

end Sys2Proof.Machine
end

