-- ==== Sys2Proof/Machine/Ops.lean ====
section
/-! DEFINITION. The named operations over the registers. The block has no exception to take and none to return from
(rules R160, R163, R164), no mode (R167) and no writable memory (R45), so none of these is an operation here. -/

namespace Sys2Proof.Machine

/-- Write the registers of unit `FSM`. -/
def State.setFsm (s : State) (u : FsmUnit) : State := { s with fsm := u }

/-- Write the registers of unit `SW`. -/
def State.setSw (s : State) (u : SwUnit) : State := { s with sw := u }

/-- Write the registers of unit `LUT`. -/
def State.setLut (s : State) (u : LutUnit) : State := { s with lut := u }

/-- Replace the events still to come. -/
def State.setPending (s : State) (es : List Event) : State := { s with pending := es }

/-- Drive the outputs for the event in hand. -/
def State.respond (s : State) (r : Response) : State := { s with response := r }

/-- Read `U.TOTAL` (R85). -/
def State.readTotal (s : State) : MatcherUnit → Nat
  | .fsm => s.fsm.total
  | .sw => s.sw.total
  | .lut => s.lut.total

/-- Read a unit's label (R32, R84). -/
def readLabel : MatcherUnit → String
  | .fsm => Config.labels.fsm
  | .sw => Config.labels.sw
  | .lut => Config.labels.lut

/-- `U.TOTAL + n` in a total of the given width: unbounded for `none`; for a finite width, `none` where the sum does
not fit, since the spec gives no value there (R88). -/
def accumulate (width : Option Nat) (total : Nat) (n : Count) : Option Nat :=
  match width with
  | none => some (total + n.toNat)
  | some w => if total + n.toNat < 2 ^ w then some (total + n.toNat) else none

end Sys2Proof.Machine
end

