-- ==== Sys2Proof/Machine/Fsm.lean ====
section
/-! DEFINITION. The state-machine matcher (rules R100 to R112, 41_fsm.md): the transition function, the byte step, and
the six transitions as operations of their own. -/

namespace Sys2Proof.Machine

/-- `FsmBit(s, b) -> (s', m)`, total on the three states (R107). -/
def fsmBit : FsmState → Bool → FsmState × Bool
  | .s2, true => (.s2, false)
  | .s2, false => (.s0, true)
  | .s1, true => (.s2, false)
  | .s1, false => (.s0, false)
  | .s0, true => (.s1, false)
  | .s0, false => (.s0, false)

/-- The transitions of a list of bits, the first bit first: the last state and the number of matches (R108). -/
def fsmRun : FsmState → List Bool → FsmState × Nat
  | st, [] => (st, 0)
  | st, b :: bs =>
    let r := fsmRun (fsmBit st b).1 bs
    (r.1, (fsmBit st b).2.toNat + r.2)

/-- The count `PROCESS(d)` on unit `FSM` returns (R108). -/
def fsmCount (st : FsmState) (d : Sample) : Count := count4 (fsmRun st (sampleBits d)).2

/-- `PROCESS(d)` on unit `FSM` (R108); `none` where the total does not fit its width. -/
def fsmProcess (width : Option Nat) (u : FsmUnit) (d : Sample) : Option (FsmUnit × Count) :=
  match accumulate width u.total (fsmCount u.state d) with
  | some t => some ({ state := (fsmRun u.state (sampleBits d)).1, total := t }, fsmCount u.state d)
  | none => none

/-- One transition taken by itself: `FSM.STATE <- target`, and `m` is the output (R100). `FSM.TOTAL` is not written:
that is for `PROCESS` and `RESET` alone (R23, R168), and no count of a `PROCESS` is in progress here (R106; log entry 3).
The state the transition starts from is the one in its own word, so it is taken whatever `FSM.STATE` holds (log entry
4). -/
def takeTransition (target : FsmState) (m : Bool) (s : State) : Host.Outcome State Fault Refusal :=
  .next ((s.setFsm { state := target, total := s.fsm.total }).respond (.transition m))

/-- `T00` (R101). -/
def execT00 (s : State) : Host.Outcome State Fault Refusal := takeTransition .s0 false s

/-- `T01` (R102). -/
def execT01 (s : State) : Host.Outcome State Fault Refusal := takeTransition .s1 false s

/-- `T10` (R103). -/
def execT10 (s : State) : Host.Outcome State Fault Refusal := takeTransition .s0 false s

/-- `T11` (R104). -/
def execT11 (s : State) : Host.Outcome State Fault Refusal := takeTransition .s2 false s

/-- `T21` (R105). -/
def execT21 (s : State) : Host.Outcome State Fault Refusal := takeTransition .s2 false s

/-- `T20` (R106). -/
def execT20 (s : State) : Host.Outcome State Fault Refusal := takeTransition .s0 true s

/-- `RESERVED_FSMT`: no transition, the model refuses (R73). -/
def execReservedFsmt (_b : Bool) (_s : State) : Host.Outcome State Fault Refusal := .refused .reservedState

end Sys2Proof.Machine
end

