-- ==== Sys2Proof/Machine/Window.lean ====
section
/-! DEFINITION. The sliding-window matcher (rules R120 to R129, 42_window.md). The counts are written over any pattern,
so that the rules about other patterns can be stated; the unit itself uses `PATTERN`. -/

namespace Sys2Proof.Machine

/-- The number of offsets at which the window of `{carry, d}` equals the pattern (R126, R128). -/
def swMatches (pattern : Window3) (carry : Carry) (d : Sample) : Nat :=
  offsets.countP fun i => matchBit pattern (windowAt (window10 carry d) i)

/-- `SwCount(carry, d)` at this hardware's pattern, in format `COUNT4` (R128). -/
def swCount (carry : Carry) (d : Sample) : Count := count4 (swMatches Config.PATTERN carry d)

/-- `PROCESS(d)` on unit `SW` (R126); `none` where the total does not fit its width. -/
def swProcess (width : Option Nat) (u : SwUnit) (d : Sample) : Option (SwUnit × Count) :=
  match accumulate width u.total (swCount u.carry d) with
  | some t => some ({ carry := carryOf d, total := t }, swCount u.carry d)
  | none => none

/-- `SW_COMPARE`: the match bit of one window; nothing is stored (R123, R30). -/
def execSwCompare (w : Window3) (s : State) : Host.Outcome State Fault Refusal :=
  .next (s.respond (.compare (matchBit Config.PATTERN w)))

end Sys2Proof.Machine
end

