-- ==== Sys2Proof/Machine/Lut.lean ====
section
/-! DEFINITION. The lookup-table matcher (rules R140 to R151, 43_lut.md): the contents of the ROM, the construction they
come from, the lookup and the byte step. The ROM is a constant: no operation writes it (R45). -/

namespace Sys2Proof.Machine

/-! ## Contents -/

/-- Entries `0x000` to `0x0FF` of the listing of rule R143, 16 to a row, the first entry of a row in its highest digit. -/
def romRows0 : List (BitVec 64) :=
  [0x0000001000001110#64, 0x0000001011111110#64, 0x0000001000001110#64, 0x1111112111111110#64,
   0x0000001000001110#64, 0x0000001011111110#64, 0x1111112111112221#64, 0x1111112111111110#64,
   0x0000001000001110#64, 0x0000001011111110#64, 0x0000001000001110#64, 0x1111112111111110#64,
   0x1111112111112221#64, 0x1111112122222221#64, 0x1111112111112221#64, 0x1111112111111110#64]

/-- Entries `0x100` to `0x1FF` of the listing of rule R143, 16 to a row, the first entry of a row in its highest digit. -/
def romRows1 : List (BitVec 64) :=
  [0x0000001000001110#64, 0x0000001011111110#64, 0x0000001000001110#64, 0x1111112111111110#64,
   0x0000001000001110#64, 0x0000001011111110#64, 0x1111112111112221#64, 0x1111112111111110#64,
   0x1111112111112221#64, 0x1111112122222221#64, 0x1111112111112221#64, 0x2222223222222221#64,
   0x1111112111112221#64, 0x1111112122222221#64, 0x1111112111112221#64, 0x1111112111111110#64]

/-- Entries `0x200` to `0x2FF` of the listing of rule R143, 16 to a row, the first entry of a row in its highest digit. -/
def romRows2 : List (BitVec 64) :=
  [0x0000001000001110#64, 0x0000001011111110#64, 0x0000001000001110#64, 0x1111112111111110#64,
   0x0000001000001110#64, 0x0000001011111110#64, 0x1111112111112221#64, 0x1111112111111110#64,
   0x0000001000001110#64, 0x0000001011111110#64, 0x0000001000001110#64, 0x1111112111111110#64,
   0x1111112111112221#64, 0x1111112122222221#64, 0x1111112111112221#64, 0x1111112111111110#64]

/-- Entries `0x300` to `0x3FF` of the listing of rule R143, 16 to a row, the first entry of a row in its highest digit. -/
def romRows3 : List (BitVec 64) :=
  [0x1111112111112221#64, 0x1111112122222221#64, 0x1111112111112221#64, 0x2222223222222221#64,
   0x1111112111112221#64, 0x1111112122222221#64, 0x2222223222223332#64, 0x2222223222222221#64,
   0x1111112111112221#64, 0x1111112122222221#64, 0x1111112111112221#64, 0x2222223222222221#64,
   0x1111112111112221#64, 0x1111112122222221#64, 0x1111112111112221#64, 0x1111112111111110#64]

/-- All 64 rows of the listing, in ascending address (R143). -/
def romRows : List (BitVec 64) := romRows0 ++ romRows1 ++ romRows2 ++ romRows3

/-- `RomRead(a)`: the entry at a 10-bit address, with no side effect (R10, R44, R147). Address bits 9:4 select the row
of the listing and bits 3:0 the entry in it. -/
def romRead (a : Window10) : Count :=
  (romRows.getD (a >>> 4).toNat 0#64 >>> (4 * (15 - (a &&& 0xF#10).toNat))).setWidth 4

/-! ## Construction -/

/-- One call of a disposable sliding-window matcher: its next carry and the count it returns (R126, R141). -/
def disposableCall (pattern : Window3) (carry : Carry) (d : Sample) : Carry × Nat :=
  (carryOf d, swMatches pattern carry d)

/-- The entry that the construction stores at an index: two calls of a fresh disposable matcher, the high portion of
the index first, and the sum of their counts (R141). -/
def constructedEntry (pattern : Window3) (a : Window10) : Nat :=
  let first := disposableCall pattern 0b00#2 (indexHigh a)
  let second := disposableCall pattern first.1 (indexLow a)
  first.2 + second.2

/-! ## Operations -/

/-- `PROCESS(d)` on unit `LUT` (R146 to R149); `none` where the total does not fit its width. -/
def lutProcess (width : Option Nat) (u : LutUnit) (d : Sample) : Option (LutUnit × Count) :=
  match accumulate width u.total (romRead (window10 u.carry d)) with
  | some t => some ({ carry := carryOf d, total := t }, romRead (window10 u.carry d))
  | none => none

/-- `LUT_LOOKUP`: one read of one entry; nothing is stored (R147, R44). -/
def execLutLookup (carry : Carry) (cur : Sample) (s : State) : Host.Outcome State Fault Refusal :=
  .next (s.respond (.entry (romRead (window10 carry cur))))

end Sys2Proof.Machine
end

