-- ==== Sys2Proof/Machine/Contract.lean ====
section
/-! DEFINITION. The operations of the matcher contract: `PROCESS`, `IDLE`, `TOTAL`, `NAME` (rules R80 to R86,
40_contract.md) and `RESET` (rules R180 to R182, 70_reset_and_hazards.md). -/

namespace Sys2Proof.Machine

/-- `PROCESS(d)` with totals of the given width: the sample goes to all three units, all register writes take effect
together, and each unit returns its count (R81, R82). Where a total does not fit, the whole event faults and nothing
is written (R88). -/
def processAtWidth (width : Option Nat) (d : Sample) (s : State) : Host.Outcome State Fault Refusal :=
  match fsmProcess width s.fsm d, swProcess width s.sw d, lutProcess width s.lut d with
  | some (f, nf), some (w, nw), some (l, nl) =>
    .next ((((s.setFsm f).setSw w).setLut l).respond (.counts nf nw nl))
  | _, _, _ => .fault .totalOverflow

/-- `PROCESS(d)` (R81). -/
def execProcess (d : Sample) (s : State) : Host.Outcome State Fault Refusal := processAtWidth Config.TOTAL_W d s

/-- `IDLE`: every register keeps its value and the result is 0 (R83). -/
def execIdle (s : State) : Host.Outcome State Fault Refusal := .next (s.respond (.counts 0#4 0#4 0#4))

/-- `RESET`: the six registers take their reset values and no count is returned (R180). The events still to come are
the environment's and stay. -/
def execReset (s : State) : Host.Outcome State Fault Refusal := .next (State.reset.setPending s.pending)

/-- `TOTAL(U)` (R85). -/
def execTotal (u : MatcherUnit) (s : State) : Host.Outcome State Fault Refusal :=
  .next (s.respond (.total (s.readTotal u)))

/-- `NAME(U)` (R84). -/
def execName (u : MatcherUnit) (s : State) : Host.Outcome State Fault Refusal :=
  .next (s.respond (.label (readLabel u)))

end Sys2Proof.Machine
end

