-- ==== Sys2Proof/Machine/Dispatch.lean ====
section
/-! DEFINITION. The meaning of every instruction: one arm per constructor of `Instr`. -/

namespace Sys2Proof.Machine

/-- Run one instruction. -/
def exec (i : Instr) (s : State) : Host.Outcome State Fault Refusal :=
  match i with
  | .process d => Sys2Proof.Machine.execProcess d s
  | .idle => Sys2Proof.Machine.execIdle s
  | .reset => Sys2Proof.Machine.execReset s
  | .total u => Sys2Proof.Machine.execTotal u s
  | .name u => Sys2Proof.Machine.execName u s
  | .t00 => Sys2Proof.Machine.execT00 s
  | .t01 => Sys2Proof.Machine.execT01 s
  | .t10 => Sys2Proof.Machine.execT10 s
  | .t11 => Sys2Proof.Machine.execT11 s
  | .t20 => Sys2Proof.Machine.execT20 s
  | .t21 => Sys2Proof.Machine.execT21 s
  | .reservedFsmt b => Sys2Proof.Machine.execReservedFsmt b s
  | .swCompare w => Sys2Proof.Machine.execSwCompare w s
  | .lutLookup carry cur => Sys2Proof.Machine.execLutLookup carry cur s

end Sys2Proof.Machine
end

