-- ==== Sys2Proof/Machine/Fetch.lean ====
section
/-! DEFINITION. How the next event reaches the block. It stores no program and fetches nothing (rule R29): its events
come from outside, one at a time and in order (R47), and stand in `State.pending`. -/

namespace Sys2Proof.Machine

/-- The encoding that an event puts at its decode point: a `BIT b` line is completed by the unit's own state (R66). -/
def eventEncoding (st : FsmState) : Event → Encoding
  | .present e => e
  | .bit b => .fsmt (fsmtWord st b)

/-- The encoding presented in this step, and the state once the event is taken. With nothing pending no `CMD` is
valid, which is `IDLE` (R83, R172). -/
def fetch (s : State) : Encoding × State :=
  match s.pending with
  | [] => (.bus false (cmdWord false 0#8), s)
  | e :: es => (eventEncoding s.fsm.state e, s.setPending es)

/-- Put a table word in front of the events still to come. -/
def placeWord (s : State) (nbits w : Nat) : State :=
  match tableEncoding nbits w with
  | some e => s.setPending (.present e :: s.pending)
  | none => s

end Sys2Proof.Machine
end

