-- ==== Sys2Proof/Machine/Step.lean ====
section
/-! DEFINITION. One step: one event (rules R12, R192). -/

namespace Sys2Proof.Machine

/-- Take the next event, decode it and run it. -/
def step (s : State) : Host.Outcome State Fault Refusal := exec (decode (fetch s).1) (fetch s).2

/-- The state whose next step runs a table word. -/
def State.withFetchWord (s : State) (nbits w : Nat) : State := placeWord s nbits w

end Sys2Proof.Machine
end

