-- ==== Sys2Proof/Safety.lean ====
section
/-! DEFINITION. The terms in which claims are made: runs, the reference count over the bitstream, the coherence of the
three units, and which events the block can take. -/

namespace Sys2Proof.Machine

/-! ## Runs -/

/-- `k` steps of the machine, stopping at the first fault or refusal. -/
def run (k : Nat) (s : State) : Host.Outcome State Fault Refusal := Host.Core.run Sys2Proof.core k s

/-- The bus event of a `CMD` word with the reset input released (R68). -/
def command (w : CmdWord) : Event := .present (.bus false w)

/-- The sample a `CMD` word presents, if it is valid (R68). -/
def sampleOf (w : CmdWord) : Option Sample := if w.getLsbD 8 then some (w.extractLsb' 0 8) else none

/-- The samples that a stream of `CMD` words presents, in order. -/
def samplesOf (ws : List CmdWord) : List Sample := ws.filterMap sampleOf

/-- `PROCESS` of each sample in turn with totals of the given width (R88, R190). -/
def feed (width : Option Nat) : List Sample → State → Host.Outcome State Fault Refusal
  | [], s => .next s
  | d :: ds, s =>
    match processAtWidth width d s with
    | .next t => feed width ds t
    | .fault r => .fault r
    | .refused r => .refused r

/-- The number of the next `k` steps whose result is a transition's match, `m = 1`. -/
def matchesOutput : Nat → State → Nat
  | 0, _ => 0
  | k + 1, s =>
    match step s with
    | .next t => (decide (t.response = .transition true)).toNat + matchesOutput k t
    | .fault _ => 0
    | .refused _ => 0

/-! ## The reference count over the bitstream -/

/-- The logical bitstream of a sequence of samples (R8): each sample's bits, bit 7 first. -/
def streamBits (ds : List Sample) : List Bool := ds.flatMap sampleBits

/-- Bit `k - 2` of the stream, so that positions 0 and 1 are the two virtual zero bits before it (R8). -/
def streamBit (bits : List Bool) (k : Nat) : Bool := (false :: false :: bits).getD k false

/-- `{s[k-2], s[k-1], s[k]}`: the window that closes at stream bit `k` (R13, R62). -/
def windowClosingAt (bits : List Bool) (k : Nat) : Window3 :=
  BitVec.ofBool (streamBit bits k) ++ BitVec.ofBool (streamBit bits (k + 1)) ++ BitVec.ofBool (streamBit bits (k + 2))

/-- The number of stream bits at which the pattern closes. -/
def countMatches (bits : List Bool) : Nat :=
  (List.range bits.length).countP fun k => windowClosingAt bits k == Config.PATTERN

/-- `Count(n)` of rule R87 for the samples processed since reset. -/
def referenceCount (ds : List Sample) : Nat := countMatches (streamBits ds)

/-! ## Coherence of the units -/

/-- The automaton position that goes with a carry (R38 part c). -/
def carryState (c : Carry) : FsmState := if c = 0b11#2 then .s2 else if c = 0b01#2 then .s1 else .s0

/-- The carry after a sequence of samples: bits 1:0 of the last one, zeros if there is none (R38 part b). -/
def lastCarry (ds : List Sample) : Carry :=
  match ds.getLast? with
  | some d => carryOf d
  | none => 0b00#2

/-- The units stand where equal streams since reset have put them (R38 parts b, c, d). -/
abbrev Coherent (s : State) : Prop :=
  s.sw.carry = s.lut.carry ∧ s.fsm.state = carryState s.sw.carry ∧ s.fsm.total = s.sw.total ∧ s.sw.total = s.lut.total

/-- The six registers of two states agree (R21). -/
abbrev SameRegisters (s t : State) : Prop := s.fsm = t.fsm ∧ s.sw = t.sw ∧ s.lut = t.lut

/-! ## Events -/

/-- The operations of the block as a whole: `RESET`, `PROCESS`, `IDLE`, `TOTAL`, `NAME` (R86). The other decode points
lie inside a unit. -/
def contractEvent : Event → Bool
  | .present (.bus _ _) => true
  | .present (.totalPort _) => true
  | .present (.namePort _) => true
  | .present (.fsmt _) => false
  | .present (.window _) => false
  | .present (.romAddress _) => false
  | .bit _ => false

/-- The events that have a next state: all but an `FSMT` value that holds the reserved state code (R73, R74). -/
def acceptable : Event → Bool
  | .present (.fsmt w) => (decodeState (fsmtState w)).isSome
  | .present (.bus _ _) => true
  | .present (.totalPort _) => true
  | .present (.namePort _) => true
  | .present (.window _) => true
  | .present (.romAddress _) => true
  | .bit _ => true

/-- An event that asserts the reset input. -/
def isReset : Event → Bool
  | .present (.bus r _) => r
  | .present (.totalPort _) => false
  | .present (.namePort _) => false
  | .present (.fsmt _) => false
  | .present (.window _) => false
  | .present (.romAddress _) => false
  | .bit _ => false

/-! ## The table as a listing -/

/-- The 1024 entries of the ROM in ascending address, read off the rows of rule R143 from left to right. -/
def romListing : List Count :=
  romRows.flatMap fun (row : BitVec 64) => (List.range 16).map fun k => (row >>> (4 * (15 - k))).setWidth 4

/-- All ROM addresses in ascending order. -/
def allAddresses : List Window10 := (List.range 1024).map (BitVec.ofNat 10)

end Sys2Proof.Machine
end

