-- ==== Sys2Proof/Certificates/Slice0/Obligations.lean ====
section
/-! DEFINITION. The statements for the provers. ROM contents need no frame clause anywhere: the ROM is a constant and
no field of State holds it (rules R33, R45). The per-step fields `pending` and `response` are the model's own (log
entries 1 and 2): clauses about them say what the model does with them. -/

open Sys2Proof Sys2Proof.Machine

/-! ## Encoding and stepping -/

/-- R73 as a whole: which operation each encoding selects, the transition table, and the reserved code's refusal.
That a transition stays within the three states is the type of `fsmBit`. -/
def Obligations.OperationMapFollowsTheTable : Prop :=
  (∀ w, decode (.bus true w) = .reset) ∧
  (∀ d, decode (.bus false (cmdWord true d)) = .process d) ∧
  (∀ x, decode (.bus false (cmdWord false x)) = .idle) ∧
  (∀ u, decode (.totalPort u) = .total u) ∧ (∀ u, decode (.namePort u) = .name u) ∧
  (decode (.fsmt 0b000#3) = .t00 ∧ fsmBit .s0 false = (.s0, false)) ∧
  (decode (.fsmt 0b001#3) = .t01 ∧ fsmBit .s0 true = (.s1, false)) ∧
  (decode (.fsmt 0b010#3) = .t10 ∧ fsmBit .s1 false = (.s0, false)) ∧
  (decode (.fsmt 0b011#3) = .t11 ∧ fsmBit .s1 true = (.s2, false)) ∧
  (decode (.fsmt 0b100#3) = .t20 ∧ fsmBit .s2 false = (.s0, true)) ∧
  (decode (.fsmt 0b101#3) = .t21 ∧ fsmBit .s2 true = (.s2, false)) ∧
  (∀ b s, exec (decode (.fsmt (0b11#2 ++ BitVec.ofBool b))) s = .refused .reservedState) ∧
  (∀ a s, ∃ n, exec (decode (.romAddress a)) s = .next (s.respond (.entry n))) ∧
  (∀ w s, ∃ m, exec (decode (.window w)) s = .next (s.respond (.compare m)))

/-- Words written out from the encodings of R68, R66, R62 and R64: one instruction of every family, through the byte
decoder (the byte order is the model's, log entry 9). -/
def Obligations.EncodedWordsDecode : Prop :=
  decodeBytes .cmd [0xC0#8, 0x01#8] = .ok (.process 0xC0#8) ∧
  decodeBytes .cmd [0xA5#8, 0x00#8] = .ok .idle ∧
  decodeBytes .fsmt [0x04#8] = .ok .t20 ∧
  decodeBytes .fsmt [0x07#8] = .ok (.reservedFsmt true) ∧
  decodeBytes .w3 [0x06#8] = .ok (.swCompare 0b110#3) ∧
  decodeBytes .window10 [0x6D#8, 0x03#8] = .ok (.lutLookup 0b11#2 0x6D#8) ∧
  decodeBytes .cmd [0x00#8, 0x02#8] = .error .bitsAboveFormat ∧
  decodeBytes .fsmt [0x00#8, 0x00#8] = .error .wrongLength

/-- Decode and encode agree, both ways. Every instruction's encoding decodes to it, at the decode point and, where the
instruction has bits, from its bytes; and bytes that decode are the encoder's own, but for the ignored data of `IDLE`. -/
def Obligations.DecodeInvertsEncode : Prop :=
  (∀ i : Instr, decode (encode i) = i) ∧
  (∀ i f bs, encodeBytes i = some (f, bs) → decodeBytes f bs = .ok i) ∧
  (∀ f bs i, decodeBytes f bs = .ok i →
    encodeBytes i = some (f, bs) ∨ (i = .idle ∧ f = .cmd ∧ ∃ x : Sample, bs = [x, 0x00#8]))

/-- A step runs the decoded instruction: the event in front is taken and its instruction runs on what is left; a
`BIT b` line is completed by the unit's own state (R66); with nothing pending the block idles (log entry 1). -/
def Obligations.StepRunsTheDecodedInstruction : Prop :=
  (∀ (s : State) (e : Encoding) (es : List Event),
    step (s.setPending (.present e :: es)) = exec (decode e) (s.setPending es)) ∧
  (∀ (s : State) (b : Bool) (es : List Event), step (s.setPending (.bit b :: es)) =
    exec (decode (.fsmt (fsmtWord s.fsm.state b))) (s.setPending es)) ∧
  (∀ s : State, s.pending = [] → step s = exec .idle s)

/-! ## RESET -/

/-- R180: `RESET` constructs the three units, returns no count, and in the reset state changes nothing. -/
def Obligations.ResetConstructsTheUnits : Prop :=
  (∀ s : State, ∃ t, exec .reset s = .next t ∧
    t.fsm.state = .s0 ∧ t.fsm.total = 0 ∧ t.sw.carry = 0b00#2 ∧ t.sw.total = 0 ∧ t.lut.carry = 0b00#2 ∧
    t.lut.total = 0 ∧ t.response = .nothing) ∧
  exec .reset State.reset = .next State.reset

/-- R37: every item of the reset table. The ROM's constant is the one the construction of R141 gives. -/
def Obligations.ResetItemsHaveTheirValues : Prop :=
  State.reset.fsm = { state := .s0, total := 0 } ∧ State.reset.sw = { carry := 0b00#2, total := 0 } ∧
  State.reset.lut = { carry := 0b00#2, total := 0 } ∧ Config.PATTERN = 0b110#3 ∧
  ∀ a, (romRead a).toNat = constructedEntry Config.PATTERN a

/-- R181: `RESET` overrides the `CMD` word presented with it, valid or not. -/
def Obligations.ResetOverridesTheCommand : Prop :=
  ∀ (s : State) (w : CmdWord) (es : List Event),
    step (s.setPending (.present (.bus true w) :: es)) = .next (State.reset.setPending es)

/-- R182: nothing of the stream before a `RESET` reaches what comes after it. -/
def Obligations.ResetForgetsTheEarlierStream : Prop :=
  ∀ (s s' : State) (w w' : CmdWord) (es : List Event) (k : Nat),
    run (k + 1) (s.setPending (.present (.bus true w) :: es)) =
      run (k + 1) (s'.setPending (.present (.bus true w') :: es))

/-! ## IDLE, TOTAL, NAME -/

/-- R83: `IDLE` ignores its data, changes no register and returns 0; and any number of them anywhere among the samples
leaves the registers that the samples alone leave. -/
def Obligations.IdleChangesNothing : Prop :=
  (∀ s : State, exec .idle s = .next (s.respond (.counts 0#4 0#4 0#4))) ∧
  (∀ (s : State) (x : Sample) (es : List Event),
    step (s.setPending (command (cmdWord false x) :: es)) =
      .next ((s.setPending es).respond (.counts 0#4 0#4 0#4))) ∧
  (∀ (s : State) (ws : List CmdWord), ∃ t t',
    run ws.length (s.setPending (ws.map command)) = .next t ∧
    run (samplesOf ws).length (s.setPending ((samplesOf ws).map fun d => command (cmdWord true d))) = .next t' ∧
    SameRegisters t t')

/-- R85: `TOTAL(U)` returns the unit's total with no side effect, and 0 after `RESET`. -/
def Obligations.TotalReadReturnsTheTotal : Prop :=
  (∀ s : State, exec (.total .fsm) s = .next (s.respond (.total s.fsm.total))) ∧
  (∀ s : State, exec (.total .sw) s = .next (s.respond (.total s.sw.total))) ∧
  (∀ s : State, exec (.total .lut) s = .next (s.respond (.total s.lut.total))) ∧
  (∀ (u : MatcherUnit) (s : State) (es : List Event),
    step (s.setPending (.present (.bus true 0#9) :: .present (.totalPort u) :: es)) =
      .next (State.reset.setPending (.present (.totalPort u) :: es)) ∧
    step (State.reset.setPending (.present (.totalPort u) :: es)) =
      .next ((State.reset.setPending es).respond (.total 0)))

/-- R84 and R32: `NAME(U)` returns one constant label per unit, whatever the state; the three labels are distinct and
the units are numbered 0, 1, 2. -/
def Obligations.NameReadReturnsTheLabel : Prop :=
  (∃ label : MatcherUnit → String, Function.Injective label ∧
    ∀ (u : MatcherUnit) (s : State), exec (.name u) s = .next (s.respond (.label (label u)))) ∧
  MatcherUnit.number .fsm = 0 ∧ MatcherUnit.number .sw = 1 ∧ MatcherUnit.number .lut = 2

/-! ## The state-machine matcher -/

/-- R101 to R105: the five transitions without a match. Each is taken from its own state, writes `FSM.STATE` and gives
`m = 0`; zeros from state 0 and ones from state 2 go on for ever and record nothing. -/
def Obligations.SilentTransitionsWriteTheState : Prop :=
  (decode (.fsmt 0b000#3) = .t00 ∧ ∀ s : State, s.fsm.state = .s0 →
    exec .t00 s = .next ((s.setFsm { state := .s0, total := s.fsm.total }).respond (.transition false))) ∧
  (decode (.fsmt 0b001#3) = .t01 ∧ ∀ s : State, s.fsm.state = .s0 →
    exec .t01 s = .next ((s.setFsm { state := .s1, total := s.fsm.total }).respond (.transition false))) ∧
  (decode (.fsmt 0b010#3) = .t10 ∧ ∀ s : State, s.fsm.state = .s1 →
    exec .t10 s = .next ((s.setFsm { state := .s0, total := s.fsm.total }).respond (.transition false))) ∧
  (decode (.fsmt 0b011#3) = .t11 ∧ ∀ s : State, s.fsm.state = .s1 →
    exec .t11 s = .next ((s.setFsm { state := .s2, total := s.fsm.total }).respond (.transition false))) ∧
  (decode (.fsmt 0b101#3) = .t21 ∧ ∀ s : State, s.fsm.state = .s2 →
    exec .t21 s = .next ((s.setFsm { state := .s2, total := s.fsm.total }).respond (.transition false))) ∧
  (∀ n : Nat, fsmRun .s0 (List.replicate n false) = (.s0, 0)) ∧
  (∀ n : Nat, fsmRun .s2 (List.replicate n true) = (.s2, 0))

/-- R106: `T20` writes state 0 and gives `m = 1`, the only transition that does; inside a `PROCESS` each `T20` increments
the count in progress, and through it `FSM.TOTAL`. That a `T20` standing alone leaves `FSM.TOTAL` is the model's reading
of R23, R168 and R106 (log entry 3). -/
def Obligations.MatchTransitionRecordsOneMatch : Prop :=
  (decode (.fsmt 0b100#3) = .t20 ∧ ∀ s : State, s.fsm.state = .s2 →
    exec .t20 s = .next ((s.setFsm { state := .s0, total := s.fsm.total }).respond (.transition true))) ∧
  (∀ st b, (fsmBit st b).2 = true ↔ st = .s2 ∧ b = false) ∧
  (∀ (bs cs : List Bool) (st : FsmState), (fsmRun st bs).1 = .s2 →
    fsmRun st (bs ++ false :: cs) = ((fsmRun .s0 cs).1, (fsmRun st bs).2 + 1 + (fsmRun .s0 cs).2)) ∧
  (∀ (d : Sample) (s : State), ∃ t n nw nl, exec (.process d) s = .next t ∧ t.response = .counts n nw nl ∧
    n.toNat = (fsmRun s.fsm.state (sampleBits d)).2 ∧ t.fsm.total = s.fsm.total + n.toNat)

/-- A transition takes its state from its own word: from every state, whatever `FSM.STATE` holds, each of the six
completes as `FsmBit` of the word's state and bit says (R107). That it does so where `FSM.STATE` is another state is
the model's choice (log entry 4); that it leaves `FSM.TOTAL` also where `m = 1` is log entry 3. -/
def Obligations.TransitionActsOnItsOwnWord : Prop :=
  ∀ (s : State) (w : FsmtWord) (st : FsmState), decodeState (fsmtState w) = some st →
    exec (decode (.fsmt w)) s =
      .next ((s.setFsm { state := (fsmBit st (w.getLsbD 0)).1, total := s.fsm.total }).respond
        (.transition (fsmBit st (w.getLsbD 0)).2))

/-- One `BIT` line is one application of `FsmBit` (R107) to unit `FSM`; it writes `FSM.STATE` alone (log entry 3). -/
def Obligations.BitEventAppliesFsmBit : Prop :=
  ∀ (s : State) (b : Bool) (es : List Event),
    step (s.setPending (.bit b :: es)) =
      .next (((s.setPending es).setFsm { state := (fsmBit s.fsm.state b).1, total := s.fsm.total }).respond
        (.transition (fsmBit s.fsm.state b).2))

/-- R108: `PROCESS(d)` on unit `FSM` is eight transitions from bit 7 down to bit 0; the matches among them are added to
the total and returned, at most 3 of them and at most 2 from state 0. -/
def Obligations.FsmByteStepIsEightTransitions : Prop :=
  ∀ (d : Sample) (s : State), ∃ t nw nl, exec (.process d) s = .next t ∧
    let r7 := fsmBit s.fsm.state (d.getLsbD 7)
    let r6 := fsmBit r7.1 (d.getLsbD 6)
    let r5 := fsmBit r6.1 (d.getLsbD 5)
    let r4 := fsmBit r5.1 (d.getLsbD 4)
    let r3 := fsmBit r4.1 (d.getLsbD 3)
    let r2 := fsmBit r3.1 (d.getLsbD 2)
    let r1 := fsmBit r2.1 (d.getLsbD 1)
    let r0 := fsmBit r1.1 (d.getLsbD 0)
    let n := [r7, r6, r5, r4, r3, r2, r1, r0].countP (·.2)
    t.fsm = { state := r0.1, total := s.fsm.total + n } ∧ t.response = .counts (BitVec.ofNat 4 n) nw nl ∧
    n ≤ 3 ∧ (s.fsm.state = .s0 → n ≤ 2)

/-- R110: the automaton position after a sample depends on its two lowest bits only. -/
def Obligations.StateAfterASampleIsItsLowBits : Prop :=
  ∀ (d : Sample) (s : State), ∃ t, exec (.process d) s = .next t ∧
    (d.extractLsb' 0 2 = 0b11#2 → t.fsm.state = .s2) ∧
    (d.extractLsb' 0 2 = 0b01#2 → t.fsm.state = .s1) ∧
    (d.getLsbD 0 = false → t.fsm.state = .s0)

/-- R112: after any stream from reset the unit is in state 2 exactly when the last two bits were ones, and the next
bit's match output is 1 exactly when the window it closes is the pattern; over a whole stream the matches recorded are
the windows that equal the pattern. -/
def Obligations.TransitionMatchesAreWindowMatches : Prop :=
  (∀ bits : List Bool, (fsmRun .s0 bits).1 = .s2 ↔
    streamBit bits bits.length = true ∧ streamBit bits (bits.length + 1) = true) ∧
  (∀ (bits : List Bool) (b : Bool), (fsmBit (fsmRun .s0 bits).1 b).2 = true ↔
    windowClosingAt (bits ++ [b]) bits.length = 0b110#3) ∧
  (∀ bits : List Bool, (fsmRun .s0 bits).2 = countMatches bits)

/-- `PROCESS(d)` on unit `FSM` is the eight lines `BIT d[7]` to `BIT d[0]` (R75): the eight steps leave `FSM.STATE` as the
one step does, and output as many matches as it returns and adds to the total. The lines themselves leave the total
(log entry 3) and the other units alone. -/
def Obligations.EightBitEventsRefineProcess : Prop :=
  ∀ (s : State) (d : Sample) (es : List Event), ∃ t u n nw nl,
    exec (.process d) s = .next t ∧ t.response = .counts n nw nl ∧
    run 8 (s.setPending ((sampleBits d).map .bit ++ es)) = .next u ∧
    u.fsm.state = t.fsm.state ∧
    matchesOutput 8 (s.setPending ((sampleBits d).map .bit ++ es)) = n.toNat ∧
    t.fsm.total = s.fsm.total + n.toNat ∧
    u.fsm.total = s.fsm.total ∧ u.sw = s.sw ∧ u.lut = s.lut ∧ u.pending = es

/-! ## The sliding-window matcher -/

/-- R69 and R122: the eight windows, bit by bit, in stream order; and `(V >> i) & 0b111 = V[i+2 : i]` at any width of
`V`. -/
def Obligations.WindowsAreTheEightSlices : Prop :=
  (∀ (c : Carry) (d : Sample), offsets.map (windowAt (window10 c d)) =
    [BitVec.ofBoolListBE [c.getLsbD 1, c.getLsbD 0, d.getLsbD 7],
     BitVec.ofBoolListBE [c.getLsbD 0, d.getLsbD 7, d.getLsbD 6],
     BitVec.ofBoolListBE [d.getLsbD 7, d.getLsbD 6, d.getLsbD 5],
     BitVec.ofBoolListBE [d.getLsbD 6, d.getLsbD 5, d.getLsbD 4],
     BitVec.ofBoolListBE [d.getLsbD 5, d.getLsbD 4, d.getLsbD 3],
     BitVec.ofBoolListBE [d.getLsbD 4, d.getLsbD 3, d.getLsbD 2],
     BitVec.ofBoolListBE [d.getLsbD 3, d.getLsbD 2, d.getLsbD 1],
     BitVec.ofBoolListBE [d.getLsbD 2, d.getLsbD 1, d.getLsbD 0]]) ∧
  (∀ (n : Nat) (v : BitVec n) (i : Nat), windowAt v i = v.extractLsb' i 3)

/-- R123 and R124: a window matches when all three bits equal the pattern's; `M[i] = V[i+2] & V[i+1] & ~V[i]`; one
compare stores nothing; and the count is the number of ones of `M`, at most 3, since two matching windows are at least
3 offsets apart. -/
def Obligations.MatchBitsCompareTheWindows : Prop :=
  (∀ (v : Window10) (i : Nat), i ≤ 7 →
    (matchVector Config.PATTERN v).getLsbD i = (windowAt v i == 0b110#3) ∧
    (matchVector Config.PATTERN v).getLsbD i = (v.getLsbD (i + 2) && v.getLsbD (i + 1) && !v.getLsbD i)) ∧
  (∀ (w : Window3) (s : State), exec (.swCompare w) s = .next (s.respond (.compare (w == 0b110#3)))) ∧
  (∀ (c : Carry) (d : Sample), (swCount c d).toNat = popcount (matchVector Config.PATTERN (window10 c d)) ∧
    (swCount c d).toNat ≤ 3) ∧
  (∀ (v : Window10) (i j : Nat), i < j → j ≤ 7 → (matchVector Config.PATTERN v).getLsbD i = true →
    (matchVector Config.PATTERN v).getLsbD j = true → i + 3 ≤ j)

/-- R126, over natural numbers: `V = 256 * carry + d`; the count is the number of offsets at which `V` shifted right
has 6 in its low three bits; the new carry is `d` modulo 4. -/
def Obligations.SwByteStepCountsTheWindows : Prop :=
  ∀ (d : Sample) (s : State), ∃ t nf nl, exec (.process d) s = .next t ∧
    let v := 256 * s.sw.carry.toNat + d.toNat
    let n := [7, 6, 5, 4, 3, 2, 1, 0].countP fun i => v / 2 ^ i % 8 == 6
    t.sw = { carry := BitVec.ofNat 2 (d.toNat % 4), total := s.sw.total + n } ∧
    t.response = .counts nf (BitVec.ofNat 4 n) nl

/-- R129: from carry `0b00` a sample of 0 to 3 counts nothing at this pattern, so the unit returns 0 for it; for a
pattern with bit 2 clear some such sample does count. -/
def Obligations.FirstConstructionCallCountsNothing : Prop :=
  (∀ (d : Sample) (s : State), d.toNat ≤ 3 → s.sw.carry = 0b00#2 → ∃ t nf nl,
    exec (.process d) s = .next t ∧ t.response = .counts nf 0#4 nl ∧ t.sw.total = s.sw.total) ∧
  (∀ p : Window3, p.getLsbD 2 = false → ∃ d : Sample, d.toNat ≤ 3 ∧ swMatches p 0b00#2 d ≠ 0)

/-- R34: the upper six bits of a stored previous sample reach no window and no ROM address. -/
def Obligations.UpperBitsOfThePreviousSampleAreHidden : Prop :=
  (∀ (previous d : Sample) (i : Nat), i ≤ 7 →
    windowAt (combined16 previous d) i = windowAt (window10 (carryOf previous) d) i) ∧
  (∀ previous d : Sample, romIndex previous d = window10 (carryOf previous) d)

/-! ## The lookup-table matcher -/

/-- R141: at every address a lookup answers what the construction stores there: the two counts of a fresh disposable
matcher, the high portion of the index first. -/
def Obligations.RomHoldsTheConstructedTable : Prop :=
  ∀ (c : Carry) (d : Sample) (s : State), ∃ n,
    exec (.lutLookup c d) s = .next (s.respond (.entry n)) ∧
    n.toNat = swMatches 0b110#3 0b00#2 (c.setWidth 8) + swMatches 0b110#3 c d ∧
    constructedEntry 0b110#3 (c ++ d) = n.toNat

/-- R142: the closed form of an entry, its collapse at this pattern, and at how many addresses the entry exceeds the
`SW` unit's count for each of the eight patterns. -/
def Obligations.RomEntryClosedForm : Prop :=
  (∀ (p : Window3) (a : Window10), constructedEntry p a =
    swMatches p 0b00#2 ((windowCarry a).setWidth 8) + swMatches p (windowCarry a) (windowSample a)) ∧
  (∀ (a : Window10) (s : State), exec (decode (.romAddress a)) s =
    .next (s.respond (.entry (swCount (windowCarry a) (windowSample a))))) ∧
  ((List.range 8).map fun p => allAddresses.countP fun a =>
    decide (swMatches (BitVec.ofNat 3 p) (windowCarry a) (windowSample a) < constructedEntry (BitVec.ofNat 3 p) a)) =
      [1024, 768, 256, 256, 0, 0, 0, 0]

/-- R144: how many entries hold each value, their sum, where the threes are, and how the four blocks relate. -/
def Obligations.RomContentsHaveTheListedProperties : Prop :=
  ((List.range 16).map fun n => allAddresses.countP fun a => romRead a == BitVec.ofNat 4 n) =
    [232, 568, 216, 8, 0, 0, 0, 0, 0, 0, 0, 0, 0, 0, 0, 0] ∧
  (allAddresses.map fun a => (romRead a).toNat).sum = 1024 ∧
  (∀ (a : Window10) (s : State), exec (decode (.romAddress a)) s = .next (s.respond (.entry 3#4)) ↔
    a ∈ [0x1B6#10, 0x336#10, 0x366#10, 0x36C#10, 0x36D#10, 0x36E#10, 0x376#10, 0x3B6#10]) ∧
  (∀ x : Sample, romRead (window10 0b10#2 x) = romRead (window10 0b00#2 x)) ∧
  (∀ x : Sample, (romRead (window10 0b01#2 x)).toNat =
    (romRead (window10 0b00#2 x)).toNat + (x.extractLsb' 6 2 == 0b10#2).toNat) ∧
  (∀ x : Sample, (romRead (window10 0b11#2 x)).toNat =
    (romRead (window10 0b00#2 x)).toNat + (x.extractLsb' 6 2 != 0b11#2).toNat) ∧
  (∀ a : Window10, (romRead a).toNat = constructedEntry Config.PATTERN a)

/-- R147: a lookup returns the entry whose index in the listing equals the address, and nothing else happens. -/
def Obligations.LookupReturnsTheAddressedEntry : Prop :=
  romListing.length = 1024 ∧
  ∀ (carry : Carry) (cur : Sample) (s : State), ∃ n,
    romListing[256 * carry.toNat + cur.toNat]? = some n ∧
    exec (.lutLookup carry cur) s = .next (s.respond (.entry n))

/-- R146 to R149: `PROCESS(d)` on unit `LUT` reads the entry at `{LUT.CARRY, d}` with the carry from before, keeps
`d[1:0]`, adds the entry to the total and returns it. -/
def Obligations.LutByteStepReadsTheTable : Prop :=
  ∀ (d : Sample) (s : State), ∃ t nf nw n, exec (.process d) s = .next t ∧
    romListing[256 * s.lut.carry.toNat + d.toNat]? = some n ∧
    t.lut = { carry := BitVec.ofNat 2 (d.toNat % 4), total := s.lut.total + n.toNat } ∧
    t.response = .counts nf nw n

/-- R150: from equal carries `SW` and `LUT` return equal counts and reach equal carries, and from reset they stay equal
for ever. -/
def Obligations.LutAndSwAgreeFromEqualCarries : Prop :=
  (∀ (d : Sample) (s : State), s.lut.carry = s.sw.carry → ∃ t nf n,
    exec (.process d) s = .next t ∧ t.response = .counts nf n n ∧ n = swCount s.lut.carry d ∧
    t.lut.carry = t.sw.carry) ∧
  (∀ ws : List CmdWord, ∃ t, run ws.length (State.reset.setPending (ws.map command)) = .next t ∧
    t.lut.carry = t.sw.carry ∧ t.lut.total = t.sw.total)

/-! ## The contract -/

/-- The stream of R8 and R41: bit `i` of sample `j` is stream bit `8 j + (7 - i)`, and two zeros stand before it. -/
def Obligations.StreamIsMostSignificantBitFirst : Prop :=
  (∀ (ds : List Sample) (j i : Nat) (d : Sample), ds[j]? = some d → i ≤ 7 →
    (streamBits ds)[8 * j + (7 - i)]? = some (d.getLsbD i) ∧
    streamBit (streamBits ds) (8 * j + (7 - i) + 2) = d.getLsbD i) ∧
  (∀ bits : List Bool, streamBit bits 0 = false ∧ streamBit bits 1 = false)

/-- The hazard of R186: two pieces of a stream counted apart miss the match that straddles the cut. There is at most
one, and there can be one (vector V6). -/
def Obligations.SplittingAStreamLosesTheStraddlingMatch : Prop :=
  (∀ ds es : List Sample,
    referenceCount ds + referenceCount es ≤ referenceCount (ds ++ es) ∧
    referenceCount (ds ++ es) ≤ referenceCount ds + referenceCount es + 1) ∧
  referenceCount [0x03#8] + referenceCount [0x00#8] + 1 = referenceCount [0x03#8, 0x00#8]

/-- R92: no unit returns more than 3, from any state; 3 is reached; the table's entries sum to 1024. -/
def Obligations.CountsAreAtMostThree : Prop :=
  (∀ (d : Sample) (s : State), ∃ t nf nw nl, exec (.process d) s = .next t ∧ t.response = .counts nf nw nl ∧
    nf.toNat ≤ 3 ∧ nw.toNat ≤ 3 ∧ nl.toNat ≤ 3) ∧
  romRead (window10 0b11#2 0x6D#8) = 3#4 ∧
  (allAddresses.map fun a => (romRead a).toNat).sum = 1024

/-- R89: no event but `RESET` decreases a total, and with no samples every total stays 0. -/
def Obligations.TotalsNeverDecrease : Prop :=
  (∀ (s t : State) (e : Event) (es : List Event), isReset e = false →
    step (s.setPending (e :: es)) = .next t →
    s.fsm.total ≤ t.fsm.total ∧ s.sw.total ≤ t.sw.total ∧ s.lut.total ≤ t.lut.total) ∧
  (∀ ws : List CmdWord, samplesOf ws = [] → ∃ t, run ws.length (State.reset.setPending (ws.map command)) = .next t ∧
    t.fsm.total = 0 ∧ t.sw.total = 0 ∧ t.lut.total = 0)

/-- R88: totals add without loss; at a finite width `PROCESS` does the same while every sum fits and faults, with
nothing written, where one does not. -/
def Obligations.TotalsAddWithoutLoss : Prop :=
  ∀ (d : Sample) (s : State), ∃ t nf nw nl,
    exec (.process d) s = .next t ∧ t.response = .counts nf nw nl ∧
    t.fsm.total = s.fsm.total + nf.toNat ∧ t.sw.total = s.sw.total + nw.toNat ∧
    t.lut.total = s.lut.total + nl.toNat ∧
    ∀ w : Nat,
      (t.fsm.total < 2 ^ w ∧ t.sw.total < 2 ^ w ∧ t.lut.total < 2 ^ w → processAtWidth (some w) d s = .next t) ∧
      (¬(t.fsm.total < 2 ^ w ∧ t.sw.total < 2 ^ w ∧ t.lut.total < 2 ^ w) →
        processAtWidth (some w) d s = .fault .totalOverflow)

/-- R190: at a width of `w` bits, `(2^w - 1) / 3` samples after reset are safe, and totals are then what unbounded
totals are. -/
def Obligations.SamplesAreSafeBeforeOverflow : Prop :=
  ∀ (w : Nat) (ds : List Sample), ds.length ≤ (2 ^ w - 1) / 3 →
    ∃ t, feed (some w) ds State.reset = .next t ∧ feed none ds State.reset = .next t ∧
      t.fsm.total ≤ 3 * ds.length ∧ t.sw.total ≤ 3 * ds.length ∧ t.lut.total ≤ 3 * ds.length

/-- R87: after any samples since reset every unit's total is the reference count, and the next `PROCESS` returns, on
every unit, what that sample adds to it. -/
def Obligations.TotalsAreTheReferenceCount : Prop :=
  referenceCount [] = 0 ∧
  ∀ (ds : List Sample) (d : Sample), ∃ s t n,
    run ds.length (State.reset.setPending (ds.map fun x => command (cmdWord true x))) = .next s ∧
    s.fsm.total = referenceCount ds ∧ s.sw.total = referenceCount ds ∧ s.lut.total = referenceCount ds ∧
    exec (.process d) s = .next t ∧ t.response = .counts n n n ∧
    referenceCount (ds ++ [d]) = referenceCount ds + n.toNat

/-- R90: on every stream of commands, idle ones among them, and after every number of them, the three totals are equal;
and every command returns the same count on the three units. -/
def Obligations.MatchersAreEquivalent : Prop :=
  ∀ (ws : List CmdWord) (k : Nat), k ≤ ws.length →
    ∃ t, run k (State.reset.setPending (ws.map command)) = .next t ∧
      t.fsm.total = t.sw.total ∧ t.sw.total = t.lut.total ∧ (k ≠ 0 → ∃ n, t.response = .counts n n n)

/-- R91: the equivalence depends on the pattern. The automaton agrees with the windows at `0b110` alone; the literal
construction agrees with the windows exactly when bit 2 of the pattern is set. -/
def Obligations.EquivalenceNeedsThePattern : Prop :=
  ∀ p : Window3,
    ((∀ (c : Carry) (d : Sample) (s : State), s.fsm.state = carryState c → ∃ t nf nw nl,
      exec (.process d) s = .next t ∧ t.response = .counts nf nw nl ∧ nf.toNat = swMatches p c d) ↔ p = 0b110#3) ∧
    ((∀ a : Window10, constructedEntry p a = swMatches p (windowCarry a) (windowSample a)) ↔ p.getLsbD 2 = true)

/-- R38: after any stream of commands from reset the units are coherent, and the carries are bits 1:0 of the last
sample. Part (a) is the type of `FSM.STATE`. -/
def Obligations.ReachedStatesAreCoherent : Prop :=
  ∀ ws : List CmdWord, ∃ t, run ws.length (State.reset.setPending (ws.map command)) = .next t ∧ Coherent t ∧
    t.sw.carry = lastCarry (samplesOf ws) ∧ t.lut.carry = lastCarry (samplesOf ws)

/-- Coherence is kept by every operation of the block (R86), from every coherent state, and each of them completes. -/
def Obligations.ContractEventsKeepCoherence : Prop :=
  ∀ (s : State) (e : Event) (es : List Event), Coherent s → contractEvent e = true →
    ∃ t, step (s.setPending (e :: es)) = .next t ∧ Coherent t ∧ t.pending = es

/-- The reset state is coherent. -/
def Obligations.ResetIsCoherent : Prop := Coherent State.reset

/-! ## The whole machine -/

/-- No operation fails: every event but an `FSMT` value with the reserved state code has a next state, nothing faults,
and the reserved code is the only thing refused (R166, D14). -/
def Obligations.AcceptableEventsComplete : Prop :=
  (∀ (s : State) (e : Event) (es : List Event), acceptable e = true →
    ∃ t, step (s.setPending (e :: es)) = .next t ∧ t.pending = es) ∧
  (∀ (s : State) (r : Fault), step s ≠ .fault r) ∧
  (∀ (i : Instr) (s : State) (r : Refusal), exec i s = .refused r → r = .reservedState ∧ i.wellFormed = false)

/-- R23, R25, R27 and R168: a total is written by `PROCESS`, which adds the 0 to 3 it returns, and by `RESET`, which
clears it, and by no other event. -/
def Obligations.TotalsAreWrittenByProcessAndResetOnly : Prop :=
  (∀ (s t : State) (e : Event) (es : List Event), step (s.setPending (e :: es)) = .next t →
    (t.fsm.total ≠ s.fsm.total ∨ t.sw.total ≠ s.sw.total ∨ t.lut.total ≠ s.lut.total) →
    isReset e = true ∨ ∃ d, e = command (cmdWord true d)) ∧
  (∀ (d : Sample) (s : State), ∃ t nf nw nl, exec (.process d) s = .next t ∧ t.response = .counts nf nw nl ∧
    nf.toNat ≤ 3 ∧ nw.toNat ≤ 3 ∧ nl.toNat ≤ 3 ∧ t.fsm.total = s.fsm.total + nf.toNat ∧
    t.sw.total = s.sw.total + nw.toNat ∧ t.lut.total = s.lut.total + nl.toNat) ∧
  (∀ s : State, ∃ t, exec .reset s = .next t ∧ t.fsm.total = 0 ∧ t.sw.total = 0 ∧ t.lut.total = 0)

/-- Frames. Reads, `IDLE`, one compare and one lookup leave the six registers; a transition leaves the units `SW` and
`LUT`; nothing but `PROCESS` and `RESET` writes those two units. No instruction touches the events still to come. -/
def Obligations.InstructionsWriteOnlyTheirRegisters : Prop :=
  (∀ (i : Instr) (s t : State), exec i s = .next t → t.pending = s.pending) ∧
  (∀ (i : Instr) (s t : State), exec i s = .next t → (t.sw ≠ s.sw ∨ t.lut ≠ s.lut) →
    i = .reset ∨ ∃ d, i = .process d) ∧
  (∀ (i : Instr) (s t : State), exec i s = .next t → t.fsm ≠ s.fsm →
    i = .reset ∨ (∃ d, i = .process d) ∨ i ∈ [.t00, .t01, .t10, .t11, .t20, .t21]) ∧
  (∀ (i : Instr) (s t : State), exec i s = .next t → t.fsm.total ≠ s.fsm.total →
    i = .reset ∨ ∃ d, i = .process d)

/-- R20: no unit's registers are read or written by another. What any operations of the block (R86) leave in a unit
depends on what that unit held and on the operations alone, and so does what `PROCESS` returns for it. -/
def Obligations.UnitsAreIndependent : Prop :=
  (∀ (es : List Event), (∀ e ∈ es, contractEvent e = true) → ∀ s s' : State, ∃ t t',
    run es.length (s.setPending es) = .next t ∧ run es.length (s'.setPending es) = .next t' ∧
    (s.fsm = s'.fsm → t.fsm = t'.fsm) ∧ (s.sw = s'.sw → t.sw = t'.sw) ∧ (s.lut = s'.lut → t.lut = t'.lut)) ∧
  (∀ (d : Sample) (s s' : State), ∃ t t' nf nw nl nf' nw' nl',
    exec (.process d) s = .next t ∧ exec (.process d) s' = .next t' ∧
    t.response = .counts nf nw nl ∧ t'.response = .counts nf' nw' nl' ∧
    (s.fsm = s'.fsm → nf = nf') ∧ (s.sw = s'.sw → nw = nw') ∧ (s.lut = s'.lut → nl = nl'))
end

