-- ==== Sys2Proof/Laws/State.lean ====
section
/-! SUPPORT. One lemma per field and update of `State`, so that no later proof unfolds a record update. -/

namespace Sys2Proof.Machine

@[simp] theorem State.setFsm_fsm (s : State) (u : FsmUnit) : (s.setFsm u).fsm = u := rfl
@[simp] theorem State.setFsm_sw (s : State) (u : FsmUnit) : (s.setFsm u).sw = s.sw := rfl
@[simp] theorem State.setFsm_lut (s : State) (u : FsmUnit) : (s.setFsm u).lut = s.lut := rfl
@[simp] theorem State.setFsm_pending (s : State) (u : FsmUnit) : (s.setFsm u).pending = s.pending := rfl
@[simp] theorem State.setFsm_response (s : State) (u : FsmUnit) : (s.setFsm u).response = s.response := rfl

@[simp] theorem State.setSw_fsm (s : State) (u : SwUnit) : (s.setSw u).fsm = s.fsm := rfl
@[simp] theorem State.setSw_sw (s : State) (u : SwUnit) : (s.setSw u).sw = u := rfl
@[simp] theorem State.setSw_lut (s : State) (u : SwUnit) : (s.setSw u).lut = s.lut := rfl
@[simp] theorem State.setSw_pending (s : State) (u : SwUnit) : (s.setSw u).pending = s.pending := rfl
@[simp] theorem State.setSw_response (s : State) (u : SwUnit) : (s.setSw u).response = s.response := rfl

@[simp] theorem State.setLut_fsm (s : State) (u : LutUnit) : (s.setLut u).fsm = s.fsm := rfl
@[simp] theorem State.setLut_sw (s : State) (u : LutUnit) : (s.setLut u).sw = s.sw := rfl
@[simp] theorem State.setLut_lut (s : State) (u : LutUnit) : (s.setLut u).lut = u := rfl
@[simp] theorem State.setLut_pending (s : State) (u : LutUnit) : (s.setLut u).pending = s.pending := rfl
@[simp] theorem State.setLut_response (s : State) (u : LutUnit) : (s.setLut u).response = s.response := rfl

@[simp] theorem State.setPending_fsm (s : State) (es : List Event) : (s.setPending es).fsm = s.fsm := rfl
@[simp] theorem State.setPending_sw (s : State) (es : List Event) : (s.setPending es).sw = s.sw := rfl
@[simp] theorem State.setPending_lut (s : State) (es : List Event) : (s.setPending es).lut = s.lut := rfl
@[simp] theorem State.setPending_pending (s : State) (es : List Event) : (s.setPending es).pending = es := rfl
@[simp] theorem State.setPending_response (s : State) (es : List Event) :
    (s.setPending es).response = s.response := rfl
@[simp] theorem State.setPending_setPending (s : State) (es fs : List Event) :
    (s.setPending es).setPending fs = s.setPending fs := rfl

@[simp] theorem State.respond_fsm (s : State) (r : Response) : (s.respond r).fsm = s.fsm := rfl
@[simp] theorem State.respond_sw (s : State) (r : Response) : (s.respond r).sw = s.sw := rfl
@[simp] theorem State.respond_lut (s : State) (r : Response) : (s.respond r).lut = s.lut := rfl
@[simp] theorem State.respond_pending (s : State) (r : Response) : (s.respond r).pending = s.pending := rfl
@[simp] theorem State.respond_response (s : State) (r : Response) : (s.respond r).response = r := rfl

@[simp] theorem State.readTotal_fsm (s : State) : s.readTotal .fsm = s.fsm.total := rfl
@[simp] theorem State.readTotal_sw (s : State) : s.readTotal .sw = s.sw.total := rfl
@[simp] theorem State.readTotal_lut (s : State) : s.readTotal .lut = s.lut.total := rfl

@[simp] theorem State.reset_fsm : State.reset.fsm = { state := .s0, total := 0 } := rfl
@[simp] theorem State.reset_sw : State.reset.sw = { carry := 0b00#2, total := 0 } := rfl
@[simp] theorem State.reset_lut : State.reset.lut = { carry := 0b00#2, total := 0 } := rfl
@[simp] theorem State.reset_pending : State.reset.pending = [] := rfl
@[simp] theorem State.reset_response : State.reset.response = .nothing := rfl

end Sys2Proof.Machine
end

