-- ==== Sys2Proof/Laws/Ops.lean ====
section
/-! SUPPORT. What the shared operations can do: totals, counts, and the labels. -/

namespace Sys2Proof.Machine

@[simp] theorem accumulate_unbounded (total : Nat) (n : Count) : accumulate none total n = some (total + n.toNat) := rfl

/-- Everything a successful addition says: the sum is exact, and it fits a finite width. -/
theorem accumulate_some_iff (width : Option Nat) (total r : Nat) (n : Count) :
    accumulate width total n = some r ↔ r = total + n.toNat ∧ ∀ w, width = some w → r < 2 ^ w := by
  cases width with
  | none => simp [eq_comm]
  | some w =>
    by_cases h : total + n.toNat < 2 ^ w
    · constructor
      · intro e
        obtain rfl : total + n.toNat = r := by simpa [accumulate, h] using e
        exact ⟨rfl, by rintro _ ⟨rfl⟩; exact h⟩
      · rintro ⟨rfl, -⟩
        simp [accumulate, h]
    · constructor
      · intro e
        simp [accumulate, h] at e
      · rintro ⟨rfl, hw⟩
        exact absurd (hw w rfl) h

/-- An addition that does not fit answers nothing. -/
theorem accumulate_none_iff (w total : Nat) (n : Count) :
    accumulate (some w) total n = none ↔ ¬ total + n.toNat < 2 ^ w := by
  by_cases h : total + n.toNat < 2 ^ w <;> simp [accumulate, h]

/-- `COUNT4` holds every count of eight windows exactly. -/
theorem count4_toNat {n : Nat} (h : n ≤ 8) : (count4 n).toNat = n := by
  have : n < 2 ^ 4 := by omega
  simpa [count4] using Nat.mod_eq_of_lt this

theorem readLabel_fsm_ne_sw : readLabel .fsm ≠ readLabel .sw := Config.labels.distinct.1

theorem readLabel_fsm_ne_lut : readLabel .fsm ≠ readLabel .lut := Config.labels.distinct.2.1

theorem readLabel_sw_ne_lut : readLabel .sw ≠ readLabel .lut := Config.labels.distinct.2.2

end Sys2Proof.Machine
end

