-- ==== Sys2Proof/Laws/Fsm.lean ====
section
/-! SUPPORT. The automaton: its transition table, runs of bits, and what a transition and a byte step can do. -/

namespace Sys2Proof.Machine

@[simp] theorem fsmBit_s0_false : fsmBit .s0 false = (.s0, false) := rfl
@[simp] theorem fsmBit_s0_true : fsmBit .s0 true = (.s1, false) := rfl
@[simp] theorem fsmBit_s1_false : fsmBit .s1 false = (.s0, false) := rfl
@[simp] theorem fsmBit_s1_true : fsmBit .s1 true = (.s2, false) := rfl
@[simp] theorem fsmBit_s2_false : fsmBit .s2 false = (.s0, true) := rfl
@[simp] theorem fsmBit_s2_true : fsmBit .s2 true = (.s2, false) := rfl

@[simp] theorem fsmRun_nil (st : FsmState) : fsmRun st [] = (st, 0) := rfl

@[simp] theorem fsmRun_cons (st : FsmState) (b : Bool) (bs : List Bool) :
    fsmRun st (b :: bs) =
      ((fsmRun (fsmBit st b).1 bs).1, (fsmBit st b).2.toNat + (fsmRun (fsmBit st b).1 bs).2) := rfl

/-- A run over two lists is the run over the first, then over the second from where it ended. -/
theorem fsmRun_append (st : FsmState) (as bs : List Bool) :
    fsmRun st (as ++ bs) =
      ((fsmRun (fsmRun st as).1 bs).1, (fsmRun st as).2 + (fsmRun (fsmRun st as).1 bs).2) := by
  induction as generalizing st with
  | nil => simp
  | cons a as ih => simp [ih, Nat.add_assoc]

/-- A run records at most one match per bit. -/
theorem fsmRun_count_le_length (st : FsmState) (bs : List Bool) : (fsmRun st bs).2 ≤ bs.length := by
  induction bs generalizing st with
  | nil => simp
  | cons b bs ih =>
    have h := ih (fsmBit st b).1
    have hb := Bool.toNat_le (fsmBit st b).2
    simp only [fsmRun_cons, List.length_cons]
    omega

@[simp] theorem sampleBits_length (d : Sample) : (sampleBits d).length = 8 := by simp [sampleBits, offsets]

/-- The byte step's count loses nothing in `COUNT4`. -/
theorem fsmCount_toNat (st : FsmState) (d : Sample) : (fsmCount st d).toNat = (fsmRun st (sampleBits d)).2 :=
  count4_toNat (by simpa using fsmRun_count_le_length st (sampleBits d))

/-- The byte step with unbounded totals. -/
@[simp] theorem fsmProcess_unbounded (u : FsmUnit) (d : Sample) :
    fsmProcess none u d =
      some ({ state := (fsmRun u.state (sampleBits d)).1, total := u.total + (fsmCount u.state d).toNat },
        fsmCount u.state d) := rfl

/-- Everything a successful byte step says, at any width. -/
theorem fsmProcess_eq_some {width : Option Nat} {u u' : FsmUnit} {d : Sample} {n : Count}
    (h : fsmProcess width u d = some (u', n)) :
    n = fsmCount u.state d ∧ u'.state = (fsmRun u.state (sampleBits d)).1 ∧ u'.total = u.total + n.toNat ∧
      ∀ w, width = some w → u'.total < 2 ^ w := by
  unfold fsmProcess at h
  split at h
  · next t ht =>
    obtain ⟨rfl, hw⟩ := (accumulate_some_iff _ _ _ _).1 ht
    cases h
    exact ⟨rfl, rfl, rfl, hw⟩
  · cases h

/-- Everything a transition that answers a next state says. -/
theorem takeTransition_next {target : FsmState} {m : Bool} {s t : State} (h : takeTransition target m s = .next t) :
    t.fsm.state = target ∧ t.fsm.total = s.fsm.total ∧ t.sw = s.sw ∧ t.lut = s.lut ∧ t.pending = s.pending ∧
      t.response = .transition m := by
  cases h
  exact ⟨rfl, rfl, rfl, rfl, rfl, rfl⟩

end Sys2Proof.Machine
end

