-- ==== Sys2Proof/Laws/Window.lean ====
section
/-! SUPPORT. The sliding-window matcher: its count and its byte step. -/

namespace Sys2Proof.Machine

theorem swMatches_le_eight (p : Window3) (c : Carry) (d : Sample) : swMatches p c d ≤ 8 := by
  have h : swMatches p c d ≤ offsets.length := List.countP_le_length
  simpa [offsets] using h

/-- The byte step's count loses nothing in `COUNT4`. -/
theorem swCount_toNat (c : Carry) (d : Sample) : (swCount c d).toNat = swMatches Config.PATTERN c d :=
  count4_toNat (swMatches_le_eight _ _ _)

/-- The byte step with unbounded totals. -/
@[simp] theorem swProcess_unbounded (u : SwUnit) (d : Sample) :
    swProcess none u d =
      some ({ carry := carryOf d, total := u.total + (swCount u.carry d).toNat }, swCount u.carry d) := rfl

/-- Everything a successful byte step says, at any width. -/
theorem swProcess_eq_some {width : Option Nat} {u u' : SwUnit} {d : Sample} {n : Count}
    (h : swProcess width u d = some (u', n)) :
    n = swCount u.carry d ∧ u'.carry = carryOf d ∧ u'.total = u.total + n.toNat ∧
      ∀ w, width = some w → u'.total < 2 ^ w := by
  unfold swProcess at h
  split at h
  · next t ht =>
    obtain ⟨rfl, hw⟩ := (accumulate_some_iff _ _ _ _).1 ht
    cases h
    exact ⟨rfl, rfl, rfl, hw⟩
  · cases h

end Sys2Proof.Machine
end

