-- ==== Sys2Proof/Laws/Lut.lean ====
section
/-! SUPPORT. The lookup-table matcher: the shape of the listing and the byte step. -/

namespace Sys2Proof.Machine

/-- The listing has one row for each of the 64 values of address bits 9:4. -/
theorem romRows_length : romRows.length = 64 := rfl

/-- The construction, with its two disposable calls written as counts. -/
theorem constructedEntry_eq_sum (p : Window3) (a : Window10) :
    constructedEntry p a = swMatches p 0b00#2 (indexHigh a) + swMatches p (carryOf (indexHigh a)) (indexLow a) := rfl

/-- The byte step with unbounded totals. -/
@[simp] theorem lutProcess_unbounded (u : LutUnit) (d : Sample) :
    lutProcess none u d =
      some ({ carry := carryOf d, total := u.total + (romRead (window10 u.carry d)).toNat },
        romRead (window10 u.carry d)) := rfl

/-- Everything a successful byte step says, at any width. -/
theorem lutProcess_eq_some {width : Option Nat} {u u' : LutUnit} {d : Sample} {n : Count}
    (h : lutProcess width u d = some (u', n)) :
    n = romRead (window10 u.carry d) ∧ u'.carry = carryOf d ∧ u'.total = u.total + n.toNat ∧
      ∀ w, width = some w → u'.total < 2 ^ w := by
  unfold lutProcess at h
  split at h
  · next t ht =>
    obtain ⟨rfl, hw⟩ := (accumulate_some_iff _ _ _ _).1 ht
    cases h
    exact ⟨rfl, rfl, rfl, hw⟩
  · cases h

end Sys2Proof.Machine
end

