-- ==== Sys2Proof/Laws/Contract.lean ====
section
/-! SUPPORT. `exec`, instruction by instruction, as one equation each; provers cite these and never unfold a meaning. -/

namespace Sys2Proof.Machine

/-- `PROCESS` as one record update. -/
@[simp] theorem exec_process (d : Sample) (s : State) :
    exec (.process d) s = .next
      { fsm := { state := (fsmRun s.fsm.state (sampleBits d)).1, total := s.fsm.total + (fsmCount s.fsm.state d).toNat }
        sw := { carry := carryOf d, total := s.sw.total + (swCount s.sw.carry d).toNat }
        lut := { carry := carryOf d, total := s.lut.total + (romRead (window10 s.lut.carry d)).toNat }
        pending := s.pending
        response := .counts (fsmCount s.fsm.state d) (swCount s.sw.carry d) (romRead (window10 s.lut.carry d)) } := rfl

@[simp] theorem exec_reset (s : State) : exec .reset s = .next (State.reset.setPending s.pending) := rfl

@[simp] theorem exec_total (u : MatcherUnit) (s : State) :
    exec (.total u) s = .next (s.respond (.total (s.readTotal u))) := rfl

@[simp] theorem exec_name (u : MatcherUnit) (s : State) :
    exec (.name u) s = .next (s.respond (.label (readLabel u))) := rfl

@[simp] theorem exec_swCompare (w : Window3) (s : State) :
    exec (.swCompare w) s = .next (s.respond (.compare (matchBit Config.PATTERN w))) := rfl

@[simp] theorem exec_lutLookup (c : Carry) (d : Sample) (s : State) :
    exec (.lutLookup c d) s = .next (s.respond (.entry (romRead (window10 c d)))) := rfl

@[simp] theorem exec_reservedFsmt (b : Bool) (s : State) : exec (.reservedFsmt b) s = .refused .reservedState := rfl

@[simp] theorem exec_t00 (s : State) : exec .t00 s = takeTransition .s0 false s := rfl
@[simp] theorem exec_t01 (s : State) : exec .t01 s = takeTransition .s1 false s := rfl
@[simp] theorem exec_t10 (s : State) : exec .t10 s = takeTransition .s0 false s := rfl
@[simp] theorem exec_t11 (s : State) : exec .t11 s = takeTransition .s2 false s := rfl
@[simp] theorem exec_t20 (s : State) : exec .t20 s = takeTransition .s0 true s := rfl
@[simp] theorem exec_t21 (s : State) : exec .t21 s = takeTransition .s2 false s := rfl

/-- Everything `PROCESS` can do at a width: three byte steps that all fit, or the overflow fault. -/
theorem processAtWidth_cases (width : Option Nat) (d : Sample) (s : State) :
    (∃ f w l nf nw nl, fsmProcess width s.fsm d = some (f, nf) ∧ swProcess width s.sw d = some (w, nw) ∧
      lutProcess width s.lut d = some (l, nl) ∧
      processAtWidth width d s = .next ((((s.setFsm f).setSw w).setLut l).respond (.counts nf nw nl))) ∨
    ((fsmProcess width s.fsm d = none ∨ swProcess width s.sw d = none ∨ lutProcess width s.lut d = none) ∧
      processAtWidth width d s = .fault .totalOverflow) := by
  unfold processAtWidth
  cases hf : fsmProcess width s.fsm d with
  | none => exact .inr ⟨.inl rfl, rfl⟩
  | some f =>
    cases hw : swProcess width s.sw d with
    | none => exact .inr ⟨.inr (.inl rfl), rfl⟩
    | some w =>
      cases hl : lutProcess width s.lut d with
      | none => exact .inr ⟨.inr (.inr rfl), rfl⟩
      | some l => exact .inl ⟨f.1, w.1, l.1, f.2, w.2, l.2, rfl, rfl, rfl, rfl⟩

end Sys2Proof.Machine
end

