-- ==== Sys2Proof/Laws/PerInstr.lean ====
section
/-! SUPPORT. Facts made once per constructor of `Instr`. `TableRow`: the encoder keeps to the instruction's row of
spec/opcode_table.json. -/

namespace Sys2Proof.Laws.TableRow

/-- The bits a row of spec/opcode_table.json fixes: its format, its mask and its match. A row without encoding has
none. `SW_COMPARE` and `LUT_LOOKUP` leave every bit to the operand. -/
def row : Instr → Option (Format × Nat × Nat)
  | .process _ => some (.cmd, 0x100, 0x100)
  | .idle => some (.cmd, 0x100, 0x000)
  | .reset => none
  | .total _ => none
  | .name _ => none
  | .t00 => some (.fsmt, 0x7, 0x0)
  | .t01 => some (.fsmt, 0x7, 0x1)
  | .t10 => some (.fsmt, 0x7, 0x2)
  | .t11 => some (.fsmt, 0x7, 0x3)
  | .t20 => some (.fsmt, 0x7, 0x4)
  | .t21 => some (.fsmt, 0x7, 0x5)
  | .reservedFsmt _ => some (.fsmt, 0x6, 0x6)
  | .swCompare _ => some (.w3, 0x0, 0x0)
  | .lutLookup _ _ => some (.window10, 0x0, 0x0)

/-- The encoder's word lies in the row's format, has the row's fixed bits and no bit above the format's width; a row
without encoding has no word. -/
def Statement (i : Instr) : Prop :=
  match row i, (encode i).word with
  | some (f, mask, fixed), some (g, n) => g = f ∧ n &&& mask = fixed ∧ n < 2 ^ f.width
  | none, none => True
  | _, _ => False

theorem process (d : Sample) : Statement (.process d) := by
  show Format.cmd = .cmd ∧ (cmdWord true d).toNat &&& 0x100 = 0x100 ∧ (cmdWord true d).toNat < 2 ^ 9
  exact ⟨rfl, by revert d; decide, (cmdWord true d).isLt⟩

theorem idle : Statement .idle := by show Format.cmd = .cmd ∧ _; decide

theorem reset : Statement .reset := trivial

theorem total (u : MatcherUnit) : Statement (.total u) := trivial

theorem name (u : MatcherUnit) : Statement (.name u) := trivial

theorem t00 : Statement .t00 := by show Format.fsmt = .fsmt ∧ _; decide

theorem t01 : Statement .t01 := by show Format.fsmt = .fsmt ∧ _; decide

theorem t10 : Statement .t10 := by show Format.fsmt = .fsmt ∧ _; decide

theorem t11 : Statement .t11 := by show Format.fsmt = .fsmt ∧ _; decide

theorem t20 : Statement .t20 := by show Format.fsmt = .fsmt ∧ _; decide

theorem t21 : Statement .t21 := by show Format.fsmt = .fsmt ∧ _; decide

theorem reservedFsmt (b : Bool) : Statement (.reservedFsmt b) := by
  cases b <;> (show Format.fsmt = .fsmt ∧ _) <;> decide

theorem swCompare (w : Window3) : Statement (.swCompare w) := by
  show Format.w3 = .w3 ∧ w.toNat &&& 0 = 0 ∧ w.toNat < 2 ^ 3
  exact ⟨rfl, Nat.and_zero _, w.isLt⟩

theorem lutLookup (c : Carry) (d : Sample) : Statement (.lutLookup c d) := by
  show Format.window10 = .window10 ∧ (c ++ d).toNat &&& 0 = 0 ∧ (c ++ d).toNat < 2 ^ 10
  exact ⟨rfl, Nat.and_zero _, (c ++ d).isLt⟩

end Sys2Proof.Laws.TableRow
end

