-- ==== Sys2Proof/Laws/Step.lean ====
section
/-! SUPPORT. Fetching the next event, and runs step by step. -/

namespace Sys2Proof.Machine

/-- With nothing pending, an idle bus. -/
theorem fetch_nothing_pending {s : State} (h : s.pending = []) : fetch s = (.bus false (cmdWord false 0#8), s) := by
  simp [fetch, h]

/-- With an event in front, that event, and it is taken. -/
@[simp] theorem fetch_setPending_cons (s : State) (e : Event) (es : List Event) :
    fetch (s.setPending (e :: es)) = (eventEncoding s.fsm.state e, s.setPending es) := rfl

@[simp] theorem decode_bus_reset (w : CmdWord) : decode (.bus true w) = .reset := rfl

@[simp] theorem decode_bus_valid (d : Sample) : decode (.bus false (cmdWord true d)) = .process d := by
  revert d; decide

@[simp] theorem decode_bus_idle (x : Sample) : decode (.bus false (cmdWord false x)) = .idle := by
  revert x; decide

@[simp] theorem run_zero (s : State) : run 0 s = .next s := rfl

/-- A run of one more step: the step, then the rest from where it ended. -/
theorem run_succ_of_next {s t : State} (k : Nat) (h : step s = .next t) : run (k + 1) s = run k t := by
  show Host.Core.run Sys2Proof.core (k + 1) s = Host.Core.run Sys2Proof.core k t
  have h' : Sys2Proof.core.step s = .next t := h
  simp [Host.Core.run, h']

@[simp] theorem matchesOutput_zero (s : State) : matchesOutput 0 s = 0 := rfl

/-- The matches output over one more step: the step's own, then those of the rest. -/
theorem matchesOutput_succ_of_next {s t : State} (k : Nat) (h : step s = .next t) :
    matchesOutput (k + 1) s = (decide (t.response = .transition true)).toNat + matchesOutput k t := by
  simp [matchesOutput, h]

end Sys2Proof.Machine
end

