-- ==== Sys2Proof/Tests/Slice0.lean ====
section
/-! SUPPORT. Tests: words written out from the spec's encodings, the spec's own vectors (95_test_vectors.md), and a
witness for the hypotheses of every statement that has any. -/

open Sys2Proof Sys2Proof.Machine

/-! ## Parameters (R6) -/

theorem test_parameters_agree :
    Config.WINDOW_W = Config.CARRY_W + Config.SAMPLE_W ∧ Config.COMBINED_W = 2 * Config.SAMPLE_W ∧
    Config.ROM_DEPTH = 2 ^ Config.ROM_ADDR_W ∧ romRows.length * 16 = Config.ROM_DEPTH ∧
    offsets.length = Config.N_OFFSETS ∧ Config.FSM_STATES < 2 ^ Config.STATE_W := by decide

/-! ## Well-formedness -/

theorem test_reserved_is_ill_formed : (Instr.reservedFsmt true).wellFormed = false := by decide

theorem test_process_is_well_formed : (Instr.process 0xFF#8).wellFormed = true := by decide

/-! ## Decoding: words from the formats of R60 to R68 -/

/-- `CMD = 1 11000000` (S1). -/
theorem test_decode_process : decode (.bus false 0b111000000#9) = .process 0xC0#8 := by decide

/-- `CMD = 0 10100101`: data ignored (V4). -/
theorem test_decode_idle : decode (.bus false 0b010100101#9) = .idle := by decide

/-- The reset input overrides `CMD = 1 00000000` (V4). -/
theorem test_decode_reset : decode (.bus true 0b100000000#9) = .reset := by decide

theorem test_decode_total : decode (.totalPort .lut) = .total .lut := by decide

theorem test_decode_name : decode (.namePort .sw) = .name .sw := by decide

theorem test_decode_t00 : decode (.fsmt 0b000#3) = .t00 := by decide

theorem test_decode_t01 : decode (.fsmt 0b001#3) = .t01 := by decide

theorem test_decode_t10 : decode (.fsmt 0b010#3) = .t10 := by decide

theorem test_decode_t11 : decode (.fsmt 0b011#3) = .t11 := by decide

theorem test_decode_t20 : decode (.fsmt 0b100#3) = .t20 := by decide

theorem test_decode_t21 : decode (.fsmt 0b101#3) = .t21 := by decide

theorem test_decode_reserved : decode (.fsmt 0b110#3) = .reservedFsmt false ∧
    decode (.fsmt 0b111#3) = .reservedFsmt true := by decide

theorem test_decode_compare : decode (.window 0b110#3) = .swCompare 0b110#3 := by decide

/-- Address `11 01101101`. -/
theorem test_decode_lookup : decode (.romAddress 0b1101101101#10) = .lutLookup 0b11#2 0x6D#8 := by decide

theorem test_table_words :
    decodeTableWord 16 0x1C0 = some (.process 0xC0#8) ∧ decodeTableWord 16 0x000 = some .idle ∧
    decodeTableWord 8 0x4 = some .t20 ∧ decodeTableWord 8 0x6 = some (.swCompare 0b110#3) ∧
    decodeTableWord 8 0x7 = some (.reservedFsmt true) ∧
    decodeTableWord 16 0x36D = some (.lutLookup 0b11#2 0x6D#8) ∧ decodeTableWord 16 0x400 = none := by decide

/-- The very next step runs a placed word: an instruction of every family from the state after reset. -/
theorem test_placed_words_run :
    (step (State.reset.withFetchWord 16 0x1C0) = exec (.process 0xC0#8) State.reset) ∧
    (step (State.reset.withFetchWord 8 0x4) = exec .t20 State.reset) ∧
    (step (State.reset.withFetchWord 8 0x7) = exec (.reservedFsmt true) State.reset) ∧
    (step (State.reset.withFetchWord 8 0x6) = exec (.swCompare 0b110#3) State.reset) ∧
    (step (State.reset.withFetchWord 16 0x36D) = exec (.lutLookup 0b11#2 0x6D#8) State.reset) :=
  ⟨rfl, rfl, rfl, rfl, rfl⟩

/-! ## Operands (R70, R71; vector S8) -/

/-- Whole previous byte `0xDB`, current `0x6D`: index `0x36D`. -/
theorem test_rom_index : romIndex 0xDB#8 0x6D#8 = 0x36D#10 ∧ window10 (carryOf 0xDB#8) 0x6D#8 = 0x36D#10 := by decide

theorem test_index_split : indexHigh 0x36D#10 = 0x03#8 ∧ indexLow 0x36D#10 = 0x6D#8 := by decide

/-! ## Steps, on small states -/

/-- A state with given registers, nothing pending and no response. -/
def testState (st : FsmState) (c : Carry) (n : Nat) : State :=
  { fsm := { state := st, total := n }, sw := { carry := c, total := n }, lut := { carry := c, total := n }
    pending := [], response := .nothing }

/-- The next state of an outcome. -/
def nextOf (o : Host.Outcome State Fault Refusal) : Option State :=
  match o with
  | .next s => some s
  | .fault _ => none
  | .refused _ => none

/-- P1, second step: `PROCESS 0x6D` after `0xDB`. -/
theorem test_process_dense : nextOf (exec (.process 0x6D#8) (testState .s2 0b11#2 2)) =
    some { testState .s1 0b01#2 5 with response := .counts 3#4 3#4 3#4 } := by decide

/-- S4, second step: the match at the boundary. -/
theorem test_process_boundary : nextOf (exec (.process 0x00#8) (testState .s2 0b11#2 0)) =
    some { testState .s0 0b00#2 1 with response := .counts 1#4 1#4 1#4 } := by decide

/-- V4. -/
theorem test_idle : nextOf (exec .idle (testState .s2 0b11#2 4)) =
    some { testState .s2 0b11#2 4 with response := .counts 0#4 0#4 0#4 } := by decide

/-- V4: `RESET` together with `CMD 0x100`. -/
theorem test_reset_with_command :
    nextOf (step ((testState .s2 0b11#2 4).setPending [.present (.bus true 0x100#9)])) = some State.reset := by decide

/-- V4. -/
theorem test_total : nextOf (exec (.total .lut) (testState .s2 0b11#2 4)) =
    some { testState .s2 0b11#2 4 with response := .total 4 } := by decide

/-- V4: any state, the unit's own label. -/
theorem test_name : exec (.name .sw) (testState .s2 0b11#2 4) =
    .next { testState .s2 0b11#2 4 with response := .label Config.labels.sw } := rfl

/-- V1. -/
theorem test_t00 : nextOf (exec .t00 (testState .s0 0b00#2 0)) =
    some ((testState .s0 0b00#2 0).respond (.transition false)) := by decide

/-- V1. -/
theorem test_t01 : nextOf (exec .t01 (testState .s0 0b00#2 0)) =
    some (((testState .s0 0b00#2 0).setFsm ⟨.s1, 0⟩).respond (.transition false)) := by decide

/-- V1. -/
theorem test_t10 : nextOf (exec .t10 (testState .s1 0b01#2 0)) =
    some (((testState .s1 0b01#2 0).setFsm ⟨.s0, 0⟩).respond (.transition false)) := by decide

/-- V1. -/
theorem test_t11 : nextOf (exec .t11 (testState .s1 0b01#2 0)) =
    some (((testState .s1 0b01#2 0).setFsm ⟨.s2, 0⟩).respond (.transition false)) := by decide

/-- V1: the only row with `m = 1`; the total is for `PROCESS` and `RESET` alone (R23). -/
theorem test_t20 : (nextOf (exec .t20 (testState .s2 0b11#2 7))).map (fun t => (t.fsm, t.response)) =
    some (⟨.s0, 7⟩, .transition true) := by decide

/-- P5: the eight lines of `0x5C` from state 0 output one match. -/
theorem test_bit_lines_of_5c :
    matchesOutput 8 (State.reset.setPending ((sampleBits 0x5C#8).map .bit)) = 1 := by decide

/-- V1. -/
theorem test_t21 : nextOf (exec .t21 (testState .s2 0b11#2 7)) =
    some ((testState .s2 0b11#2 7).respond (.transition false)) := by decide

/-- V1: no transition. -/
theorem test_reserved : exec (.reservedFsmt false) (testState .s2 0b11#2 7) = .refused .reservedState := rfl

/-- R123: `0b110` matches, the reversed reading `0b011` does not. -/
theorem test_compare :
    (nextOf (exec (.swCompare 0b110#3) State.reset)).map (·.response) = some (.compare true) ∧
    (nextOf (exec (.swCompare 0b011#3) State.reset)).map (·.response) = some (.compare false) := by decide

/-- R144: `0x36D` is one of the eight threes; R143, row `0x1B0`, entry 6. -/
theorem test_lookup :
    (nextOf (exec (.lutLookup 0b11#2 0x6D#8) State.reset)).map (·.response) = some (.entry 3#4) ∧
    (nextOf (exec (.lutLookup 0b01#2 0xB6#8) State.reset)).map (·.response) = some (.entry 3#4) := by decide

/-- V2 and V3, rows of `0xB6` from state 1 and carry 01: three matches in each unit; match vector `01001001`. -/
theorem test_units_on_b6 :
    fsmRun .s1 (sampleBits 0xB6#8) = (.s0, 3) ∧ swCount 0b01#2 0xB6#8 = 3#4 ∧
    matchVector Config.PATTERN (window10 0b01#2 0xB6#8) = 0b01001001#8 ∧
    romRead (window10 0b01#2 0xB6#8) = 3#4 := by decide

/-- V5: what the construction gives for patterns outside the hardware. -/
theorem test_other_patterns :
    constructedEntry 0b011#3 0x300#10 = 1 ∧ swMatches 0b011#3 0b11#2 0x00#8 = 0 ∧
    constructedEntry 0b000#3 0x000#10 = 16 ∧ swMatches 0b000#3 0b00#2 0x00#8 = 8 := by decide

/-- R88 and D5: a total of 3 bits that a match would take past 7. -/
theorem test_finite_total_overflows :
    processAtWidth (some 3) 0x00#8 (testState .s2 0b11#2 7) = .fault .totalOverflow := rfl

/-! ## Witnesses: every statement's hypotheses are met -/

theorem witness_decode_inverts_encode :
    encodeBytes (.lutLookup 0b11#2 0xFF#8) = some (.window10, [0xFF#8, 0x03#8]) ∧
    decodeBytes .window10 [0xFF#8, 0x03#8] = .ok (.lutLookup 0b11#2 0xFF#8) ∧
    decodeBytes .cmd [0xFF#8, 0x00#8] = .ok .idle := ⟨rfl, rfl, rfl⟩

theorem witness_step_with_nothing_pending : State.reset.pending = [] := rfl

theorem witness_transitions :
    (testState .s0 0b00#2 0).fsm.state = .s0 ∧ (testState .s1 0b01#2 0).fsm.state = .s1 ∧
    (testState .s2 0b11#2 0).fsm.state = .s2 := by decide

theorem witness_transition_words :
    decodeState (fsmtState 0b100#3) = some .s2 ∧ decodeState (fsmtState 0b001#3) = some .s0 ∧
    (fsmRun .s0 [true, true]).1 = .s2 := by decide

theorem witness_fsm_byte_step_from_state_zero : State.reset.fsm.state = .s0 := rfl

theorem witness_state_after_a_sample :
    (0xFF#8).extractLsb' 0 2 = 0b11#2 ∧ (0xFD#8).extractLsb' 0 2 = 0b01#2 ∧
    (0xFE#8).getLsbD 0 = false ∧ (0x00#8).getLsbD 0 = false := by decide

theorem witness_offsets : (0 : Nat) ≤ 7 ∧ (7 : Nat) ≤ 7 := by decide

theorem witness_two_matches : (1 : Nat) < 4 ∧ (4 : Nat) ≤ 7 ∧
    (matchVector Config.PATTERN 0x36D#10).getLsbD 1 = true ∧
    (matchVector Config.PATTERN 0x36D#10).getLsbD 4 = true := by decide

theorem witness_first_construction_call :
    (0x03#8 : Sample).toNat ≤ 3 ∧ State.reset.sw.carry = 0b00#2 ∧ (0b011#3 : Window3).getLsbD 2 = false := by decide

theorem witness_pattern_dependence : (testState .s2 0b11#2 0).fsm.state = carryState 0b11#2 ∧
    (testState .s1 0b01#2 0).fsm.state = carryState 0b01#2 ∧ (testState .s0 0b10#2 0).fsm.state = carryState 0b10#2 := by
  decide

theorem witness_equal_carries : State.reset.lut.carry = State.reset.sw.carry := rfl

theorem witness_totals_never_decrease :
    isReset (command 0x1C0#9) = false ∧
    (∃ t, step (State.reset.setPending [command 0x1C0#9]) = .next t) ∧ samplesOf [0x0A5#9] = [] :=
  ⟨rfl, ⟨_, rfl⟩, rfl⟩

theorem witness_totals_fit_and_do_not : ∃ t, exec (.process 0x00#8) (testState .s2 0b11#2 7) = .next t ∧
    (t.fsm.total < 2 ^ 4 ∧ t.sw.total < 2 ^ 4 ∧ t.lut.total < 2 ^ 4) ∧
    ¬(t.fsm.total < 2 ^ 3 ∧ t.sw.total < 2 ^ 3 ∧ t.lut.total < 2 ^ 3) :=
  ⟨_, rfl, by decide, by decide⟩

theorem witness_safe_samples : [0xC0#8].length ≤ (2 ^ 2 - 1) / 3 ∧ ([] : List Sample).length ≤ (2 ^ 0 - 1) / 3 := by
  decide

theorem witness_matchers_are_equivalent : 1 ≤ [0x1C0#9].length ∧ (1 : Nat) ≠ 0 := by decide

theorem witness_coherence_and_contract_event :
    Coherent (testState .s2 0b11#2 4) ∧ contractEvent (command 0x100#9) = true ∧
    contractEvent (.present (.bus true 0x100#9)) = true ∧ contractEvent (.present (.totalPort .fsm)) = true ∧
    contractEvent (.present (.namePort .lut)) = true := by decide

theorem witness_acceptable_events :
    acceptable (.present (.fsmt 0b101#3)) = true ∧ acceptable (.bit true) = true ∧
    acceptable (command 0x1FF#9) = true ∧ acceptable (.present (.fsmt 0b110#3)) = false := by decide

theorem witness_refusal : exec (.reservedFsmt true) State.reset = .refused .reservedState := rfl

theorem witness_total_written : ∃ t, step ((testState .s2 0b11#2 0).setPending [command (cmdWord true 0x00#8)]) =
    .next t ∧ (t.fsm.total ≠ 0 ∨ t.sw.total ≠ 0 ∨ t.lut.total ≠ 0) :=
  ⟨_, rfl, by decide⟩

theorem witness_registers_written :
    (∃ t, exec (.process 0xFF#8) State.reset = .next t ∧ (t.sw ≠ State.reset.sw ∨ t.lut ≠ State.reset.lut) ∧
      t.fsm ≠ State.reset.fsm) ∧
    (∃ t, exec (.process 0x00#8) (testState .s2 0b11#2 0) = .next t ∧
      t.fsm.total ≠ (testState .s2 0b11#2 0).fsm.total) :=
  ⟨⟨_, rfl, by decide, by decide⟩, ⟨_, rfl, by decide⟩⟩

theorem witness_independent_units :
    (∀ e ∈ [command 0x1C0#9], contractEvent e = true) ∧
    State.reset.fsm = (State.reset.setSw ⟨0b11#2, 9⟩).fsm ∧ State.reset.sw = (State.reset.setFsm ⟨.s2, 9⟩).sw ∧
    State.reset.lut = (State.reset.setSw ⟨0b11#2, 9⟩).lut := by decide

theorem witness_stream_positions :
    [0xC0#8, 0x03#8][1]? = some (0x03#8 : Sample) ∧ (0 : Nat) ≤ 7 ∧ (7 : Nat) ≤ 7 := by decide

theorem witness_prefix_lengths : (0 : Nat) ≤ [0x1C0#9].length := by decide
end

section
/-! PROOFS. Operands: windows, the combined values and the ROM index, bit by bit (R34, R69 to R72). -/

namespace Sys2Proof.Machine

/-- Shift and mask is the slice `V[i+2:i]`, at every width of `V` (R69, R122). -/
theorem windowAt_eq_extractLsb' {n : Nat} (v : BitVec n) (i : Nat) : windowAt v i = v.extractLsb' i 3 := by
  have hmask : ∀ j < 3, Nat.testBit 0b111 j = true := by decide
  apply BitVec.eq_of_getLsbD_eq
  intro j hj
  rw [windowAt, BitVec.getLsbD_setWidth, BitVec.getLsbD_and, BitVec.getLsbD_ushiftRight, BitVec.getLsbD_ofNat,
    BitVec.getLsbD_extractLsb', hmask j hj]
  by_cases hn : j < n
  · simp [hn]
  · simp [BitVec.getLsbD_of_ge v (i + j) (by omega)]

theorem getLsbD_windowAt {n : Nat} (v : BitVec n) (i : Nat) {j : Nat} (hj : j < 3) :
    (windowAt v i).getLsbD j = v.getLsbD (i + j) := by
  rw [windowAt_eq_extractLsb', BitVec.getLsbD_extractLsb']
  simp [hj]

theorem getLsbD_window10 (c : Carry) (d : Sample) (k : Nat) :
    (window10 c d).getLsbD k = if k < 8 then d.getLsbD k else c.getLsbD (k - 8) :=
  BitVec.getLsbD_append

theorem getLsbD_carryOf (d : Sample) (k : Nat) : (carryOf d).getLsbD k = (decide (k < 2) && d.getLsbD k) := by
  rw [carryOf, BitVec.getLsbD_extractLsb', Nat.zero_add]

/-- A carry as its two bits, the earlier one first. -/
theorem carry_eq_bits (c : Carry) : c = BitVec.ofBool (c.getLsbD 1) ++ BitVec.ofBool (c.getLsbD 0) := by
  revert c; decide

theorem carryOf_eq_bits (d : Sample) : carryOf d = BitVec.ofBool (d.getLsbD 1) ++ BitVec.ofBool (d.getLsbD 0) := by
  rw [carry_eq_bits (carryOf d), getLsbD_carryOf, getLsbD_carryOf]
  rfl

/-- Below bit 10 the 16-bit value is `{previous[1:0], d}` (R34). -/
theorem getLsbD_combined16 (previous d : Sample) {k : Nat} (hk : k < 10) :
    (combined16 previous d).getLsbD k = (window10 (carryOf previous) d).getLsbD k := by
  rw [getLsbD_window10, getLsbD_carryOf, combined16, BitVec.getLsbD_or, BitVec.getLsbD_shiftLeft,
    BitVec.getLsbD_setWidth, BitVec.getLsbD_setWidth]
  by_cases h8 : k < 8
  · simp [h8, show k < 16 by omega]
  · have hd : d.getLsbD k = false := BitVec.getLsbD_of_ge d k (by omega)
    simp [h8, hd, show k < 16 by omega, show k - 8 < 16 by omega, show k - 8 < 2 by omega]

/-- A window at offset 7 or below ends at bit 9, so it lies in the ten bits that the two values share. -/
theorem windowAt_combined16 (previous d : Sample) {i : Nat} (hi : i ≤ 7) :
    windowAt (combined16 previous d) i = windowAt (window10 (carryOf previous) d) i := by
  apply BitVec.eq_of_getLsbD_eq
  intro j hj
  rw [getLsbD_windowAt _ _ hj, getLsbD_windowAt _ _ hj, getLsbD_combined16 _ _ (by omega)]

theorem romIndex_eq_window10 (previous d : Sample) : romIndex previous d = window10 (carryOf previous) d := by
  have hmask : ∀ k < 10, (0x3FF#16).getLsbD k = true := by decide
  apply BitVec.eq_of_getLsbD_eq
  intro k hk
  rw [← getLsbD_combined16 _ _ hk, romIndex, BitVec.getLsbD_setWidth, BitVec.getLsbD_and, hmask k hk]
  simp [hk]

/-- Every 10-bit value is a carry and a sample (R64). -/
theorem window10_windowCarry_windowSample (a : Window10) : window10 (windowCarry a) (windowSample a) = a := by
  apply BitVec.eq_of_getLsbD_eq
  intro k hk
  rw [getLsbD_window10, windowCarry, windowSample, BitVec.getLsbD_extractLsb', BitVec.getLsbD_extractLsb']
  by_cases h8 : k < 8
  · simp [h8]
  · simp [h8, show k - 8 < 2 by omega, show 8 + (k - 8) = k by omega]

theorem indexHigh_window10 (c : Carry) (d : Sample) : indexHigh (window10 c d) = c.setWidth 8 := by
  apply BitVec.eq_of_getLsbD_eq
  intro k hk
  rw [indexHigh, BitVec.getLsbD_setWidth, BitVec.getLsbD_ushiftRight, getLsbD_window10, BitVec.getLsbD_setWidth]
  simp

theorem indexLow_window10 (c : Carry) (d : Sample) : indexLow (window10 c d) = d := by
  have hmask : ∀ k < 8, (0xFF#10).getLsbD k = true := by decide
  apply BitVec.eq_of_getLsbD_eq
  intro k hk
  rw [indexLow, BitVec.getLsbD_setWidth, BitVec.getLsbD_and, getLsbD_window10, hmask k hk]
  simp [hk]

theorem carryOf_setWidth (c : Carry) : carryOf (c.setWidth 8) = c := by revert c; decide

/-- Settles O24: bits 9:0 of the 16-bit value are the 10-bit value, and nothing above them is looked at. -/
theorem upperBitsOfThePreviousSampleAreHidden : Obligations.UpperBitsOfThePreviousSampleAreHidden :=
  ⟨fun previous d _ hi => windowAt_combined16 previous d hi, romIndex_eq_window10⟩

end Sys2Proof.Machine
end

section
/-! PROOFS. The three matchers count alike: construction, ROM and automaton against the windows (R38, R90). -/

namespace Sys2Proof.Machine

/-- The construction as a function of carry and sample (R142). -/
theorem constructedEntry_window10 (p : Window3) (c : Carry) (d : Sample) :
    constructedEntry p (window10 c d) = swMatches p 0b00#2 (c.setWidth 8) + swMatches p c d := by
  rw [constructedEntry_eq_sum, indexHigh_window10, indexLow_window10, carryOf_setWidth]

/-- The first call of the construction counts nothing at `0b110` (R129). -/
theorem swMatches_setWidth_eq_zero (c : Carry) : swMatches Config.PATTERN 0b00#2 (c.setWidth 8) = 0 := by
  revert c; decide

/-- The listing of R143 against the windows: a fact about 1024 constants, so it is checked entry by entry. -/
theorem romRead_window10 (c : Carry) (d : Sample) : romRead (window10 c d) = swCount c d := by
  revert c d; decide

/-- The ROM holds what the construction gives (R141 to R143). -/
theorem romRead_toNat_eq_constructedEntry (a : Window10) :
    (romRead a).toNat = constructedEntry Config.PATTERN a := by
  rw [← window10_windowCarry_windowSample a, romRead_window10, swCount_toNat, constructedEntry_window10,
    swMatches_setWidth_eq_zero, Nat.zero_add]

/-- Settles O6: the registers by the model's own reset lemmas, the ROM by its construction. -/
theorem resetItemsHaveTheirValues : Obligations.ResetItemsHaveTheirValues :=
  ⟨State.reset_fsm, State.reset_sw, State.reset_lut, rfl, romRead_toNat_eq_constructedEntry⟩

/-- A match at `0b110` reads three bits: `M[i] = V[i+2] & V[i+1] & ~V[i]` (R123). -/
theorem matchBit_windowAt {n : Nat} (v : BitVec n) (i : Nat) :
    matchBit Config.PATTERN (windowAt v i) = (v.getLsbD (i + 2) && v.getLsbD (i + 1) && !v.getLsbD i) := by
  have hbits : ∀ w : Window3, matchBit Config.PATTERN w = (w.getLsbD 2 && w.getLsbD 1 && !w.getLsbD 0) := by decide
  rw [hbits, getLsbD_windowAt v i (by decide), getLsbD_windowAt v i (by decide), getLsbD_windowAt v i (by decide)]
  rfl

/-- A count is the sum of its match bits. -/
theorem countP_eq_sum_toNat {α : Type} (p : α → Bool) (l : List α) :
    l.countP p = (l.map fun x => (p x).toNat).sum := by
  induction l with
  | nil => rfl
  | cons a l ih =>
    rw [List.countP_cons, ih, List.map_cons, List.sum_cons, Nat.add_comm]
    cases p a <;> rfl

/-- The automaton's position remembers the last two bits, and it matches when the window they open closes as `110`
(R112). -/
theorem fsmBit_carryState (a b x : Bool) :
    fsmBit (carryState (BitVec.ofBool a ++ BitVec.ofBool b)) x =
      (carryState (BitVec.ofBool b ++ BitVec.ofBool x), a && b && !x) := by
  revert a b x; decide

/-- From the position that goes with a carry, eight transitions reach the position that goes with the new carry and
record one match per matching window. -/
theorem fsmRun_sampleBits (c : Carry) (d : Sample) :
    fsmRun (carryState c) (sampleBits d) = (carryState (carryOf d), swMatches Config.PATTERN c d) := by
  rw [carryOf_eq_bits]
  conv_lhs => rw [carry_eq_bits c]
  simp only [sampleBits, offsets, List.map, fsmRun_cons, fsmBit_carryState, fsmRun_nil]
  simp [swMatches, offsets, countP_eq_sum_toNat, matchBit_windowAt, getLsbD_window10]

theorem fsmCount_carryState (c : Carry) (d : Sample) : fsmCount (carryState c) d = swCount c d := by
  rw [fsmCount, fsmRun_sampleBits, swCount]

end Sys2Proof.Machine
end

section
/-! PROOFS. Streams of commands: what one command and a whole stream leave (R47, R68, R83, R192). -/

namespace Sys2Proof.Machine

/-- The state that `PROCESS(d)` leaves. -/
def afterProcess (d : Sample) (s : State) : State where
  fsm := { state := (fsmRun s.fsm.state (sampleBits d)).1, total := s.fsm.total + (fsmCount s.fsm.state d).toNat }
  sw := { carry := carryOf d, total := s.sw.total + (swCount s.sw.carry d).toNat }
  lut := { carry := carryOf d, total := s.lut.total + (romRead (window10 s.lut.carry d)).toNat }
  pending := s.pending
  response := .counts (fsmCount s.fsm.state d) (swCount s.sw.carry d) (romRead (window10 s.lut.carry d))

theorem exec_process_eq_afterProcess (d : Sample) (s : State) : exec (.process d) s = .next (afterProcess d s) :=
  exec_process d s

/-- The state that a `CMD` word leaves: `PROCESS` of its sample, or `IDLE`. -/
def afterCommand (w : CmdWord) (s : State) : State :=
  match sampleOf w with
  | some d => afterProcess d s
  | none => s.respond (.counts 0#4 0#4 0#4)

/-- The state that a stream of `CMD` words leaves, the first word first. -/
def afterCommands : List CmdWord → State → State
  | [], s => s
  | w :: ws, s => afterCommands ws (afterCommand w s)

theorem afterCommand_of_sample {w : CmdWord} {d : Sample} (h : sampleOf w = some d) (s : State) :
    afterCommand w s = afterProcess d s := by
  simp [afterCommand, h]

theorem afterCommand_of_idle {w : CmdWord} (h : sampleOf w = none) (s : State) :
    afterCommand w s = s.respond (.counts 0#4 0#4 0#4) := by
  simp [afterCommand, h]

/-- A command neither reads nor writes the events still to come. -/
theorem afterCommand_setPending (w : CmdWord) (s : State) (es : List Event) :
    afterCommand w (s.setPending es) = (afterCommand w s).setPending es := by
  cases h : sampleOf w with
  | none => rw [afterCommand_of_idle h, afterCommand_of_idle h]; rfl
  | some d => rw [afterCommand_of_sample h, afterCommand_of_sample h]; rfl

/-- A `CMD` word with the reset input released runs to the state `afterCommand` names. -/
theorem exec_decode_bus (w : CmdWord) (s : State) : exec (decode (.bus false w)) s = .next (afterCommand w s) := by
  by_cases hv : w.getLsbD 8 = true
  · have hd : decode (.bus false w) = .process (w.extractLsb' 0 8) := if_pos hv
    rw [hd, exec_process_eq_afterProcess, afterCommand_of_sample (if_pos hv)]
  · have hd : decode (.bus false w) = .idle := if_neg hv
    rw [hd, afterCommand_of_idle (if_neg hv)]
    rfl

theorem step_command (w : CmdWord) (es : List Event) (s : State) :
    step (s.setPending (command w :: es)) = .next ((afterCommand w s).setPending es) := by
  rw [← afterCommand_setPending]
  exact exec_decode_bus w (s.setPending es)

/-- A run over the commands in front takes them all, and the events behind them are still to come. -/
theorem run_commands (ws : List CmdWord) (es : List Event) (s : State) :
    run ws.length (s.setPending (ws.map command ++ es)) = .next ((afterCommands ws s).setPending es) := by
  induction ws generalizing s with
  | nil => rfl
  | cons w ws ih => exact (run_succ_of_next _ (step_command w _ s)).trans (ih (afterCommand w s))

end Sys2Proof.Machine
end

section
/-! PROOFS. Coherence of the three units along a stream of commands (R38). -/

namespace Sys2Proof.Machine

/-- `PROCESS` keeps coherence: the three units count the same and keep the same two bits. -/
theorem coherent_afterProcess {s : State} (h : Coherent s) (d : Sample) : Coherent (afterProcess d s) := by
  obtain ⟨hcarry, hstate, hsw, hlut⟩ := h
  refine ⟨rfl, ?_, ?_, ?_⟩
  · show (fsmRun s.fsm.state (sampleBits d)).1 = carryState (carryOf d)
    rw [hstate, fsmRun_sampleBits]
  · show s.fsm.total + (fsmCount s.fsm.state d).toNat = s.sw.total + (swCount s.sw.carry d).toNat
    rw [hstate, fsmCount_carryState, hsw]
  · show s.sw.total + (swCount s.sw.carry d).toNat = s.lut.total + (romRead (window10 s.lut.carry d)).toNat
    rw [romRead_window10, hcarry, hlut]

/-- The units are coherent and hold bits 1:0 of the last of the samples `ds`: the invariant of a stream (R38). -/
def CoherentAfter (ds : List Sample) (s : State) : Prop := Coherent s ∧ s.sw.carry = lastCarry ds

theorem coherentAfter_reset : CoherentAfter [] State.reset := ⟨⟨rfl, rfl, rfl, rfl⟩, rfl⟩

theorem lastCarry_concat (ds : List Sample) (d : Sample) : lastCarry (ds ++ [d]) = carryOf d := by
  simp [lastCarry]

theorem samplesOf_cons (w : CmdWord) (ws : List CmdWord) : samplesOf (w :: ws) = samplesOf [w] ++ samplesOf ws :=
  List.filterMap_append (l := [w])

/-- An idle command adds no sample and changes no register; a valid one is a `PROCESS` of the sample it adds. -/
theorem coherentAfter_afterCommand {ds : List Sample} {s : State} (h : CoherentAfter ds s) (w : CmdWord) :
    CoherentAfter (ds ++ samplesOf [w]) (afterCommand w s) := by
  obtain ⟨hcoherent, hcarry⟩ := h
  cases hw : sampleOf w with
  | none =>
    have hds : samplesOf [w] = [] := by simp [samplesOf, hw]
    rw [afterCommand_of_idle hw, hds, List.append_nil]
    exact ⟨hcoherent, hcarry⟩
  | some d =>
    have hds : samplesOf [w] = [d] := by simp [samplesOf, hw]
    rw [afterCommand_of_sample hw, hds]
    exact ⟨coherent_afterProcess hcoherent d, (lastCarry_concat ds d).symm⟩

theorem coherentAfter_afterCommands {ds : List Sample} {s : State} (h : CoherentAfter ds s) (ws : List CmdWord) :
    CoherentAfter (ds ++ samplesOf ws) (afterCommands ws s) := by
  induction ws generalizing ds s with
  | nil => exact (List.append_nil ds).symm ▸ h
  | cons w ws ih =>
    rw [samplesOf_cons, ← List.append_assoc]
    exact ih (coherentAfter_afterCommand h w)

/-- Settles O40: `CoherentAfter` holds at reset and every command keeps it. -/
theorem reachedStatesAreCoherent : Obligations.ReachedStatesAreCoherent := by
  intro ws
  obtain ⟨hcoherent, hcarry⟩ := coherentAfter_afterCommands coherentAfter_reset ws
  have hrun := run_commands ws [] State.reset
  rw [List.append_nil] at hrun
  exact ⟨_, hrun, hcoherent, hcarry, hcoherent.1.symm.trans hcarry⟩

end Sys2Proof.Machine
end

section
/-! PROOFS. The operation map and the eight windows (R69, R73, R122). -/

namespace Sys2Proof.Machine

/-- A reserved `FSMT` value keeps its bit when it is decoded (R73). -/
@[simp] theorem decode_fsmt_reserved (b : Bool) :
    decode (.fsmt (0b11#2 ++ BitVec.ofBool b)) = .reservedFsmt b := by
  cases b <;> rfl

@[simp] theorem decode_window (w : Window3) : decode (.window w) = .swCompare w := rfl

@[simp] theorem decode_romAddress (a : Window10) :
    decode (.romAddress a) = .lutLookup (windowCarry a) (windowSample a) := rfl

/-- The entry at the address itself is read: the decoder's two fields are put together again (R64, R147). -/
theorem exec_decode_romAddress (a : Window10) (s : State) :
    exec (decode (.romAddress a)) s = .next (s.respond (.entry (romRead a))) := by
  rw [decode_romAddress, exec_lutLookup, window10_windowCarry_windowSample]

/-- Settles O1: bus and read ports by the decoder's equations, the transition rows by evaluation of the decoder and of
`fsmBit`, and the rows with free fields by the equations of `exec`. -/
theorem operationMapFollowsTheTable : Obligations.OperationMapFollowsTheTable := by
  refine ⟨decode_bus_reset, decode_bus_valid, decode_bus_idle, fun _ => rfl, fun _ => rfl,
    ⟨rfl, fsmBit_s0_false⟩, ⟨rfl, fsmBit_s0_true⟩, ⟨rfl, fsmBit_s1_false⟩, ⟨rfl, fsmBit_s1_true⟩,
    ⟨rfl, fsmBit_s2_false⟩, ⟨rfl, fsmBit_s2_true⟩, ?reserved, ?address, ?comparand⟩
  case reserved =>
    intro b s
    rw [decode_fsmt_reserved, exec_reservedFsmt]
  case address => exact fun a s => ⟨_, exec_decode_romAddress a s⟩
  case comparand =>
    intro w s
    rw [decode_window]
    exact ⟨_, exec_swCompare w s⟩

/-- A list of three bits, the earliest first, as their concatenation (R62). -/
theorem ofBoolListBE_three (a b c : Bool) :
    BitVec.ofBoolListBE [a, b, c] = BitVec.ofBool a ++ BitVec.ofBool b ++ BitVec.ofBool c := by
  revert a b c; decide

/-- A window is its three bits (R62). -/
theorem window3_eq_bits (w : Window3) :
    w = BitVec.ofBool (w.getLsbD 2) ++ BitVec.ofBool (w.getLsbD 1) ++ BitVec.ofBool (w.getLsbD 0) := by
  revert w; decide

/-- `W_i = {V[i+2], V[i+1], V[i]}` (R69). -/
theorem windowAt_eq_bits {n : Nat} (v : BitVec n) (i : Nat) :
    windowAt v i =
      BitVec.ofBool (v.getLsbD (i + 2)) ++ BitVec.ofBool (v.getLsbD (i + 1)) ++ BitVec.ofBool (v.getLsbD i) := by
  rw [window3_eq_bits (windowAt v i), getLsbD_windowAt v i (by decide), getLsbD_windowAt v i (by decide),
    getLsbD_windowAt v i (by decide)]
  rfl

/-- Settles O20: each window is its three bits of `{carry, d}`, of which bits 9 and 8 are the carry's and the others
the sample's. -/
theorem windowsAreTheEightSlices : Obligations.WindowsAreTheEightSlices := by
  refine ⟨fun c d => ?listed, fun _ => windowAt_eq_extractLsb'⟩
  simp only [offsets, List.map, windowAt_eq_bits, ofBoolListBE_three, getLsbD_window10]
  rfl

end Sys2Proof.Machine
end

section
/-! PROOFS. The reference count over the bitstream is what the automaton records from state 0 (R8, R87, R112). -/

namespace Sys2Proof.Machine

/-- What follows a stream does not change its bits; the two virtual zeros are counted with them (R8). -/
theorem streamBit_append_left (bits more : List Bool) {k : Nat} (hk : k < bits.length + 2) :
    streamBit (bits ++ more) k = streamBit bits k :=
  List.getD_append (false :: false :: bits) more false k hk

theorem streamBit_concat_length (bits : List Bool) (b : Bool) : streamBit (bits ++ [b]) (bits.length + 2) = b := by
  simp [streamBit]

theorem windowClosingAt_append_left (bits more : List Bool) {k : Nat} (hk : k < bits.length) :
    windowClosingAt (bits ++ more) k = windowClosingAt bits k := by
  rw [windowClosingAt, windowClosingAt, streamBit_append_left bits more (by omega),
    streamBit_append_left bits more (by omega), streamBit_append_left bits more (by omega)]

/-- The window that a further bit closes: the last two bits of the stream before it, then the bit. -/
theorem windowClosingAt_concat_length (bits : List Bool) (b : Bool) :
    windowClosingAt (bits ++ [b]) bits.length =
      BitVec.ofBool (streamBit bits bits.length) ++ BitVec.ofBool (streamBit bits (bits.length + 1)) ++
        BitVec.ofBool b := by
  rw [windowClosingAt, streamBit_append_left bits [b] (by omega), streamBit_append_left bits [b] (by omega),
    streamBit_concat_length]

/-- A further bit adds a match exactly when it closes the pattern. -/
theorem countMatches_concat (bits : List Bool) (b : Bool) :
    countMatches (bits ++ [b]) =
      countMatches bits + (windowClosingAt (bits ++ [b]) bits.length == Config.PATTERN).toNat := by
  have hold : (List.range bits.length).countP (fun k => windowClosingAt (bits ++ [b]) k == Config.PATTERN) =
      countMatches bits :=
    List.countP_congr fun k hk => by rw [windowClosingAt_append_left bits [b] (List.mem_range.mp hk)]
  rw [countMatches, List.length_append, List.length_singleton, List.range_succ, List.countP_append, hold,
    List.countP_singleton]
  cases windowClosingAt (bits ++ [b]) bits.length == Config.PATTERN <;> rfl

/-- The last two bits of a stream, the earlier one first: what the automaton's position remembers. -/
def lastTwoBits (bits : List Bool) : Carry :=
  BitVec.ofBool (streamBit bits bits.length) ++ BitVec.ofBool (streamBit bits (bits.length + 1))

theorem lastTwoBits_concat (bits : List Bool) (b : Bool) :
    lastTwoBits (bits ++ [b]) = BitVec.ofBool (streamBit bits (bits.length + 1)) ++ BitVec.ofBool b := by
  rw [lastTwoBits, List.length_append, List.length_singleton, streamBit_append_left bits [b] (by omega),
    streamBit_concat_length]

theorem ofBool_three_beq_pattern (a b x : Bool) :
    (BitVec.ofBool a ++ BitVec.ofBool b ++ BitVec.ofBool x == Config.PATTERN) = (a && b && !x) := by
  revert a b x; decide

/-- From state 0 the automaton stands where the last two bits of the stream put it, and has recorded one match per
window that closes as the pattern (R112). -/
theorem fsmRun_s0 (bits : List Bool) : fsmRun .s0 bits = (carryState (lastTwoBits bits), countMatches bits) := by
  induction bits using List.reverseRecOn with
  | nil => rfl
  | append_singleton bits b ih =>
    have hbit := fsmBit_carryState (streamBit bits bits.length) (streamBit bits (bits.length + 1)) b
    rw [← lastTwoBits, ← lastTwoBits_concat] at hbit
    rw [fsmRun_append, ih, countMatches_concat, windowClosingAt_concat_length, ofBool_three_beq_pattern]
    simp only [fsmRun_cons, hbit, fsmRun_nil, Nat.add_zero]

theorem referenceCount_eq_fsmRun (ds : List Sample) : referenceCount ds = (fsmRun .s0 (streamBits ds)).2 := by
  rw [fsmRun_s0, referenceCount]

theorem streamBits_append (ds es : List Sample) : streamBits (ds ++ es) = streamBits ds ++ streamBits es :=
  List.flatMap_append

theorem streamBits_singleton (d : Sample) : streamBits [d] = sampleBits d := by simp [streamBits]

/-- A further sample adds to the reference count what the automaton counts in it, from where the stream before has put
it (R87). -/
theorem referenceCount_concat (ds : List Sample) (d : Sample) :
    referenceCount (ds ++ [d]) = referenceCount ds + (fsmCount (fsmRun .s0 (streamBits ds)).1 d).toNat := by
  rw [referenceCount_eq_fsmRun, streamBits_append, streamBits_singleton, fsmRun_append, ← referenceCount_eq_fsmRun,
    fsmCount_toNat]

end Sys2Proof.Machine
end

section
/-! PROOFS. The totals along a stream of commands, and the agreement of the three matchers (R87, R90). -/

namespace Sys2Proof.Machine

/-- The commands with nothing behind them. -/
theorem run_only_commands (ws : List CmdWord) (s : State) :
    run ws.length (s.setPending (ws.map command)) = .next ((afterCommands ws s).setPending []) := by
  simpa using run_commands ws [] s

theorem sampleOf_cmdWord_true (d : Sample) : sampleOf (cmdWord true d) = some d := by revert d; decide

theorem samplesOf_map_cmdWord_true (ds : List Sample) : samplesOf (ds.map (cmdWord true)) = ds := by
  simp [samplesOf, List.filterMap_map, sampleOf_cmdWord_true]

/-- A stream of samples as commands. -/
theorem run_samples (ds : List Sample) (s : State) :
    run ds.length (s.setPending (ds.map fun d => command (cmdWord true d))) =
      .next ((afterCommands (ds.map (cmdWord true)) s).setPending []) := by
  simpa [Function.comp_def] using run_only_commands (ds.map (cmdWord true)) s

/-- Unit `FSM` runs over the bits of the samples presented, and adds the matches among them to its total. -/
theorem afterCommands_fsm (ws : List CmdWord) (s : State) :
    (afterCommands ws s).fsm =
      { state := (fsmRun s.fsm.state (streamBits (samplesOf ws))).1
        total := s.fsm.total + (fsmRun s.fsm.state (streamBits (samplesOf ws))).2 } := by
  induction ws generalizing s with
  | nil => rfl
  | cons w ws ih =>
    cases hw : sampleOf w with
    | none =>
      have hds : samplesOf (w :: ws) = samplesOf ws := List.filterMap_cons_none hw
      rw [afterCommands, ih, afterCommand_of_idle hw, hds, State.respond_fsm]
    | some d =>
      have hds : samplesOf (w :: ws) = [d] ++ samplesOf ws := List.filterMap_cons_some hw
      rw [afterCommands, ih, afterCommand_of_sample hw, hds, streamBits_append, streamBits_singleton, fsmRun_append]
      simp only [afterProcess, fsmCount_toNat, Nat.add_assoc]

/-- From coherent units `PROCESS` returns one count three times. -/
theorem afterProcess_response_of_coherent {s : State} (h : Coherent s) (d : Sample) :
    (afterProcess d s).response =
      .counts (fsmCount s.fsm.state d) (fsmCount s.fsm.state d) (fsmCount s.fsm.state d) := by
  obtain ⟨hcarry, hstate, -, -⟩ := h
  show Response.counts _ (swCount s.sw.carry d) (romRead (window10 s.lut.carry d)) = _
  rw [romRead_window10, ← hcarry, hstate, fsmCount_carryState]

theorem coherent_afterCommands_reset (ws : List CmdWord) : Coherent (afterCommands ws State.reset) :=
  (coherentAfter_afterCommands coherentAfter_reset ws).1

/-- From coherent units every command returns one count three times; an idle one returns zeros. -/
theorem afterCommand_response_of_coherent {s : State} (h : Coherent s) (w : CmdWord) :
    ∃ n, (afterCommand w s).response = .counts n n n := by
  cases hw : sampleOf w with
  | none => exact ⟨0#4, by rw [afterCommand_of_idle hw, State.respond_response]⟩
  | some d => exact ⟨_, by rw [afterCommand_of_sample hw, afterProcess_response_of_coherent h]⟩

theorem afterCommands_append (us ws : List CmdWord) (s : State) :
    afterCommands (us ++ ws) s = afterCommands ws (afterCommands us s) := by
  induction us generalizing s with
  | nil => rfl
  | cons u us ih => exact ih (afterCommand u s)

/-- The state that the samples leave: coherent units, and in unit `FSM` what the automaton makes of the stream (R87). -/
theorem exists_run_samples_reset (ds : List Sample) :
    ∃ s, run ds.length (State.reset.setPending (ds.map fun d => command (cmdWord true d))) = .next s ∧ Coherent s ∧
      s.fsm = { state := (fsmRun .s0 (streamBits ds)).1, total := referenceCount ds } := by
  refine ⟨_, run_samples ds State.reset, coherent_afterCommands_reset (ds.map (cmdWord true)), ?_⟩
  rw [State.setPending_fsm, afterCommands_fsm, samplesOf_map_cmdWord_true, State.reset_fsm, Nat.zero_add,
    ← referenceCount_eq_fsmRun]

/-- Settles O37: coherence carries the count that the automaton records over the stream to the other two units. -/
theorem totalsAreTheReferenceCount : Obligations.TotalsAreTheReferenceCount := by
  refine ⟨rfl, fun ds d => ?_⟩
  obtain ⟨s, hrun, hs, hfsm⟩ := exists_run_samples_reset ds
  have ⟨_, _, hsw, hlut⟩ := hs
  have htotal : s.fsm.total = referenceCount ds := by rw [hfsm]
  refine ⟨s, _, _, hrun, htotal, hsw ▸ htotal, hlut ▸ hsw ▸ htotal, exec_process_eq_afterProcess d s,
    afterProcess_response_of_coherent hs d, ?_⟩
  rw [hfsm, referenceCount_concat]

/-- Settles O38: the units are coherent after every prefix, so the command before its end, from coherent units, has
returned one count three times. -/
theorem matchersAreEquivalent : Obligations.MatchersAreEquivalent := by
  intro ws k hk
  obtain ⟨-, -, hsw, hlut⟩ := coherent_afterCommands_reset (ws.take k)
  have hrun := run_commands (ws.take k) ((ws.drop k).map command) State.reset
  rw [← List.map_append, List.take_append_drop, List.length_take_of_le hk] at hrun
  refine ⟨_, hrun, hsw, hlut, fun hk0 => ?_⟩
  obtain hnil | ⟨us, u, hlast⟩ := List.eq_nil_or_concat' (ws.take k)
  · have hlen := List.length_take_of_le hk
    rw [hnil] at hlen
    exact absurd hlen.symm hk0
  · rw [hlast, afterCommands_append]
    exact afterCommand_response_of_coherent (coherent_afterCommands_reset us) u

end Sys2Proof.Machine
end

section
/-! PROOFS. The events that count nothing: `IDLE`, `TOTAL` and `NAME` (R32, R83 to R85). -/

namespace Sys2Proof.Machine

@[simp] theorem exec_idle (s : State) : exec .idle s = .next (s.respond (.counts 0#4 0#4 0#4)) := rfl

theorem step_present (s : State) (e : Encoding) (es : List Event) :
    step (s.setPending (.present e :: es)) = exec (decode e) (s.setPending es) := rfl

/-- What `PROCESS` leaves in the registers depends on the registers alone. -/
theorem sameRegisters_afterProcess {s t : State} (h : SameRegisters s t) (d : Sample) :
    SameRegisters (afterProcess d s) (afterProcess d t) := by
  obtain ⟨hfsm, hsw, hlut⟩ := h
  simp only [SameRegisters, afterProcess, hfsm, hsw, hlut, and_self]

/-- A stream of commands leaves the registers that the commands of its samples alone leave. -/
theorem sameRegisters_afterCommands_samplesOf (ws : List CmdWord) {s t : State} (h : SameRegisters s t) :
    SameRegisters (afterCommands ws s) (afterCommands ((samplesOf ws).map (cmdWord true)) t) := by
  induction ws generalizing s t with
  | nil => exact h
  | cons w ws ih =>
    cases hw : sampleOf w with
    | none =>
      have hds : samplesOf (w :: ws) = samplesOf ws := List.filterMap_cons_none hw
      rw [afterCommands, afterCommand_of_idle hw, hds]
      exact ih h
    | some d =>
      have hds : samplesOf (w :: ws) = d :: samplesOf ws := List.filterMap_cons_some hw
      rw [hds, List.map_cons, afterCommands, afterCommands, afterCommand_of_sample hw,
        afterCommand_of_sample (sampleOf_cmdWord_true d)]
      exact ih (sameRegisters_afterProcess h d)

/-- Settles O9: an idle word is decoded to `IDLE` whatever its data, and along a stream it leaves the registers, so
the samples alone decide them. -/
theorem idleChangesNothing : Obligations.IdleChangesNothing := by
  refine ⟨exec_idle, fun s x es => ?_, fun s ws => ⟨_, _, run_only_commands ws s, run_samples (samplesOf ws) s, ?_⟩⟩
  · rw [command, step_present, decode_bus_idle, exec_idle]
  · exact sameRegisters_afterCommands_samplesOf ws ⟨rfl, rfl, rfl⟩

@[simp] theorem decode_totalPort (u : MatcherUnit) : decode (.totalPort u) = .total u := rfl

theorem readTotal_reset (u : MatcherUnit) (es : List Event) : (State.reset.setPending es).readTotal u = 0 := by
  cases u <;> rfl

/-- Settles O10: the equation of `TOTAL(U)`, which reads zeros in the state that the step of `RESET` leaves. -/
theorem totalReadReturnsTheTotal : Obligations.TotalReadReturnsTheTotal := by
  refine ⟨exec_total .fsm, exec_total .sw, exec_total .lut, fun u s es => ⟨?_, ?_⟩⟩
  · rw [step_present, decode_bus_reset, exec_reset, State.setPending_pending]
  · rw [step_present, decode_totalPort, exec_total, readTotal_reset]

/-- The three labels are pairwise distinct (R32). -/
theorem readLabel_injective : Function.Injective readLabel := by
  intro u v h
  cases u <;> cases v <;>
    simp [readLabel_fsm_ne_sw, readLabel_fsm_ne_lut, readLabel_sw_ne_lut, readLabel_fsm_ne_sw.symm,
      readLabel_fsm_ne_lut.symm, readLabel_sw_ne_lut.symm] at h ⊢

/-- Settles O11: the labels are `readLabel`, whose three values differ whatever the texts are. -/
theorem nameReadReturnsTheLabel : Obligations.NameReadReturnsTheLabel :=
  ⟨⟨readLabel, readLabel_injective, exec_name⟩, rfl, rfl, rfl⟩

end Sys2Proof.Machine
end

section
/-! PROOFS. The bound of a count, and the totals that counts are added to (R88, R89, R92). -/

namespace Sys2Proof.Machine

/-- Of three windows in a row at most one is `110`: a match at one of them needs a one where the others need a zero. -/
theorem three_consecutive_matches_le_one {n : Nat} (v : BitVec n) (i : Nat) :
    (matchBit Config.PATTERN (windowAt v i)).toNat + (matchBit Config.PATTERN (windowAt v (i + 1))).toNat +
      (matchBit Config.PATTERN (windowAt v (i + 2))).toNat ≤ 1 := by
  have hbits : ∀ a b c d e : Bool,
      (c && b && !a).toNat + (d && c && !b).toNat + (e && d && !c).toNat ≤ 1 := by decide
  simpa only [matchBit_windowAt] using
    hbits (v.getLsbD i) (v.getLsbD (i + 1)) (v.getLsbD (i + 2)) (v.getLsbD (i + 3)) (v.getLsbD (i + 4))

/-- Three rows of three hold the eight windows, and each row one match at most (R92). -/
theorem swMatches_le_three (c : Carry) (d : Sample) : swMatches Config.PATTERN c d ≤ 3 := by
  have h0 := three_consecutive_matches_le_one (window10 c d) 0
  have h3 := three_consecutive_matches_le_one (window10 c d) 3
  have h5 := three_consecutive_matches_le_one (window10 c d) 5
  simp only [Nat.reduceAdd] at h0 h3 h5
  simp only [swMatches, offsets, countP_eq_sum_toNat, List.map, List.sum_cons, List.sum_nil]
  omega

theorem swCount_le_three (c : Carry) (d : Sample) : (swCount c d).toNat ≤ 3 := by
  rw [swCount_toNat]
  exact swMatches_le_three c d

theorem romRead_window10_le_three (c : Carry) (d : Sample) : (romRead (window10 c d)).toNat ≤ 3 := by
  rw [romRead_window10]
  exact swCount_le_three c d

/-- Every position of the automaton goes with some carry (R38 part c). -/
theorem exists_carryState_eq (st : FsmState) : ∃ c, carryState c = st := by
  cases st with
  | s0 => exact ⟨0b00#2, rfl⟩
  | s1 => exact ⟨0b01#2, rfl⟩
  | s2 => exact ⟨0b11#2, rfl⟩

theorem fsmCount_le_three (st : FsmState) (d : Sample) : (fsmCount st d).toNat ≤ 3 := by
  obtain ⟨c, rfl⟩ := exists_carryState_eq st
  rw [fsmCount_carryState]
  exact swCount_le_three c d

/-- The listing of R143 added up: a fact about 1024 constants, left to the kernel since the elaborator's own evaluation
of so long a sum meets its recursion limit. -/
theorem sum_romRead_allAddresses : (allAddresses.map fun a => (romRead a).toNat).sum = 1024 := by decide +kernel

/-- Settles O33: the windows bound the count of `SW`, and the other two units count as it does from some carry. -/
theorem countsAreAtMostThree : Obligations.CountsAreAtMostThree :=
  ⟨fun d s => ⟨_, _, _, _, exec_process_eq_afterProcess d s, rfl, fsmCount_le_three _ _, swCount_le_three _ _,
    romRead_window10_le_three _ _⟩, rfl, sum_romRead_allAddresses⟩

/-- No total of `s` is above that of `t`. -/
abbrev TotalsLe (s t : State) : Prop :=
  s.fsm.total ≤ t.fsm.total ∧ s.sw.total ≤ t.sw.total ∧ s.lut.total ≤ t.lut.total

theorem totalsLe_takeTransition {target : FsmState} {m : Bool} {s t : State} (h : takeTransition target m s = .next t) :
    TotalsLe s t := by
  obtain ⟨-, hfsm, hsw, hlut, -, -⟩ := takeTransition_next h
  exact ⟨hfsm.ge, hsw ▸ le_rfl, hlut ▸ le_rfl⟩

/-- `PROCESS` adds to the totals, `RESET` clears them, and every other instruction leaves them. -/
theorem totalsLe_of_exec {i : Instr} {s t : State} (hi : i ≠ .reset) (h : exec i s = .next t) : TotalsLe s t := by
  cases i with
  | reset => exact absurd rfl hi
  | process d =>
    cases h
    exact ⟨Nat.le_add_right _ _, Nat.le_add_right _ _, Nat.le_add_right _ _⟩
  | idle | total _ | name _ | swCompare _ | lutLookup _ _ =>
    cases h
    exact ⟨le_rfl, le_rfl, le_rfl⟩
  | t00 | t01 | t10 | t11 | t20 | t21 => exact totalsLe_takeTransition h
  | reservedFsmt b => cases h

theorem decodeCmd_ne_reset (w : CmdWord) : decodeCmd w ≠ .reset := by
  unfold decodeCmd
  split <;> simp

theorem decodeFsmt_ne_reset (w : FsmtWord) : decodeFsmt w ≠ .reset := by revert w; decide

/-- The reset input alone selects `RESET` (R181). -/
theorem decode_eventEncoding_ne_reset {e : Event} (h : isReset e = false) (st : FsmState) :
    decode (eventEncoding st e) ≠ .reset := by
  cases e with
  | bit b => exact decodeFsmt_ne_reset _
  | present e =>
    cases e with
    | bus rst w =>
      obtain rfl : rst = false := h
      exact decodeCmd_ne_reset w
    | fsmt w => exact decodeFsmt_ne_reset w
    | totalPort | namePort | window | romAddress => nofun

/-- Settles O34: a step runs the instruction its event decodes to, and without samples the automaton runs over no
bits. -/
theorem totalsNeverDecrease : Obligations.TotalsNeverDecrease := by
  refine ⟨fun s t e es he h => ?_, fun ws hws => ⟨_, run_only_commands ws State.reset, ?_⟩⟩
  · exact totalsLe_of_exec (s := s.setPending es) (decode_eventEncoding_ne_reset he s.fsm.state) h
  · obtain ⟨-, -, hsw, hlut⟩ := coherent_afterCommands_reset ws
    have hfsm : (afterCommands ws State.reset).fsm.total = 0 := by
      rw [afterCommands_fsm, hws]
      rfl
    exact ⟨hfsm, hsw ▸ hfsm, hlut ▸ hsw ▸ hfsm⟩

theorem fsmProcess_eq_none {w : Nat} {u : FsmUnit} {d : Sample} (h : fsmProcess (some w) u d = none) :
    ¬ u.total + (fsmCount u.state d).toNat < 2 ^ w := by
  unfold fsmProcess at h
  split at h
  · cases h
  · exact (accumulate_none_iff _ _ _).1 ‹_›

theorem swProcess_eq_none {w : Nat} {u : SwUnit} {d : Sample} (h : swProcess (some w) u d = none) :
    ¬ u.total + (swCount u.carry d).toNat < 2 ^ w := by
  unfold swProcess at h
  split at h
  · cases h
  · exact (accumulate_none_iff _ _ _).1 ‹_›

theorem lutProcess_eq_none {w : Nat} {u : LutUnit} {d : Sample} (h : lutProcess (some w) u d = none) :
    ¬ u.total + (romRead (window10 u.carry d)).toNat < 2 ^ w := by
  unfold lutProcess at h
  split at h
  · cases h
  · exact (accumulate_none_iff _ _ _).1 ‹_›

/-- The three totals of a state fit `w` bits. -/
abbrev TotalsFit (w : Nat) (s : State) : Prop :=
  s.fsm.total < 2 ^ w ∧ s.sw.total < 2 ^ w ∧ s.lut.total < 2 ^ w

/-- `PROCESS` at a finite width: the unbounded one's state while its totals fit, the fault where one does not (R88). -/
theorem processAtWidth_some (w : Nat) (d : Sample) (s : State) :
    processAtWidth (some w) d s =
      if TotalsFit w (afterProcess d s) then .next (afterProcess d s) else .fault .totalOverflow := by
  obtain ⟨f, u, l, nf, nw, nl, hf, hu, hl, h⟩ | ⟨hnone, h⟩ := processAtWidth_cases (some w) d s
  · obtain ⟨rfl, hfstate, hftotal, hffit⟩ := fsmProcess_eq_some hf
    obtain ⟨rfl, hucarry, hutotal, hufit⟩ := swProcess_eq_some hu
    obtain ⟨rfl, hlcarry, hltotal, hlfit⟩ := lutProcess_eq_some hl
    have heq : (((s.setFsm f).setSw u).setLut l).respond (.counts (fsmCount s.fsm.state d) (swCount s.sw.carry d)
        (romRead (window10 s.lut.carry d))) = afterProcess d s := by
      cases f; cases u; cases l
      subst hfstate hftotal hucarry hutotal hlcarry hltotal
      rfl
    rw [h, heq, if_pos]
    rw [← heq]
    exact ⟨hffit w rfl, hufit w rfl, hlfit w rfl⟩
  · rw [h, if_neg]
    rintro ⟨hffit, hufit, hlfit⟩
    obtain hf | hu | hl := hnone
    · exact fsmProcess_eq_none hf hffit
    · exact swProcess_eq_none hu hufit
    · exact lutProcess_eq_none hl hlfit

/-- Settles O35: the equation of `PROCESS`, and its comparison with a finite width. -/
theorem totalsAddWithoutLoss : Obligations.TotalsAddWithoutLoss := by
  intro d s
  refine ⟨_, _, _, _, exec_process_eq_afterProcess d s, rfl, rfl, rfl, rfl, fun w => ⟨fun hfit => ?_, fun hfit => ?_⟩⟩
  · rw [processAtWidth_some, if_pos hfit]
  · rw [processAtWidth_some, if_neg hfit]

end Sys2Proof.Machine
end

section
/-! PROOFS. What the agreement of the units asks of the pattern (R91, R142). -/

namespace Sys2Proof.Machine

/-- The construction counts twice at an address: the two carry bits as a sample, then the window itself (R142). -/
theorem constructedEntry_eq_swMatches_add (p : Window3) (a : Window10) :
    constructedEntry p a =
      swMatches p 0b00#2 ((windowCarry a).setWidth 8) + swMatches p (windowCarry a) (windowSample a) := by
  conv_lhs => rw [← window10_windowCarry_windowSample a]
  exact constructedEntry_window10 p (windowCarry a) (windowSample a)

theorem windowCarry_window10 (c : Carry) (d : Sample) : windowCarry (window10 c d) = c := by
  apply BitVec.eq_of_getLsbD_eq
  intro k hk
  rw [windowCarry, BitVec.getLsbD_extractLsb', getLsbD_window10]
  simp [hk]

/-- The first call sees the zeros before the carry bits, so it never counts exactly where the pattern begins with a
one. -/
theorem swMatches_setWidth_eq_zero_iff (p : Window3) :
    (∀ c : Carry, swMatches p 0b00#2 (c.setWidth 8) = 0) ↔ p.getLsbD 2 = true := by
  revert p; decide

/-- The construction gives the window counts where its first call adds nothing (R91). -/
theorem constructedEntry_eq_swMatches_iff (p : Window3) :
    (∀ a : Window10, constructedEntry p a = swMatches p (windowCarry a) (windowSample a)) ↔ p.getLsbD 2 = true := by
  rw [← swMatches_setWidth_eq_zero_iff]
  constructor
  · intro h c
    have hc := h (window10 c 0#8)
    rw [constructedEntry_eq_swMatches_add, windowCarry_window10] at hc
    omega
  · intro h a
    rw [constructedEntry_eq_swMatches_add, h, Nat.zero_add]

/-- The stream `1000101111` has a window for every pattern but `110`. -/
theorem swMatches_eq_zero_only_at_pattern (p : Window3) (h : swMatches p 0b10#2 0x2F#8 = 0) : p = 0b110#3 := by
  revert p; decide

/-- The automaton counts the windows equal to `p` only if `p` is its own pattern: the stream `1000101111`, in which it
counts nothing, tells it from the seven others (R91). -/
theorem pattern_eq_of_fsmCount_eq {p : Window3}
    (h : ∀ (c : Carry) (d : Sample), (fsmCount (carryState c) d).toNat = swMatches p c d) : p = 0b110#3 :=
  swMatches_eq_zero_only_at_pattern p (h 0b10#2 0x2F#8).symm

/-- Settles O39: the automaton counts as the windows at `110`, and one stream rules the other patterns out; the
construction is right where its first call counts nothing. -/
theorem equivalenceNeedsThePattern : Obligations.EquivalenceNeedsThePattern := by
  refine fun p => ⟨⟨fun h => pattern_eq_of_fsmCount_eq fun c d => ?_, ?_⟩, constructedEntry_eq_swMatches_iff p⟩
  · obtain ⟨t, nf, nw, nl, ht, hresponse, hcount⟩ := h c d (State.reset.setFsm ⟨carryState c, 0⟩) rfl
    cases ht
    cases hresponse
    exact hcount
  · rintro rfl c d s hs
    refine ⟨_, _, _, _, exec_process_eq_afterProcess d s, rfl, ?_⟩
    rw [hs, fsmCount_carryState, swCount_toNat]

end Sys2Proof.Machine
end

section
/-! PROOFS. The state-machine matcher by itself: its silent transitions, its byte step, and what its position says of
the bits consumed (R101 to R105, R108, R110, R112). -/

namespace Sys2Proof.Machine

/-- A transition names its next state outright, whatever the state before. -/
theorem takeTransition_eq_next (target : FsmState) (m : Bool) (s : State) :
    takeTransition target m s =
      .next ((s.setFsm { state := target, total := s.fsm.total }).respond (.transition m)) := rfl

/-- A bit that leaves a position without a match leaves it so however often it is repeated. -/
theorem fsmRun_replicate_of_silent_loop {st : FsmState} {b : Bool} (h : fsmBit st b = (st, false)) (n : Nat) :
    fsmRun st (List.replicate n b) = (st, 0) := by
  induction n with
  | zero => rfl
  | succ n ih => rw [List.replicate_succ, fsmRun_cons, h, ih]; rfl

/-- Settles O12: each row is its transition's equation, which holds from every state and so from the row's own; the
two endless runs are the loops of states 0 and 2. -/
theorem silentTransitionsWriteTheState : Obligations.SilentTransitionsWriteTheState :=
  ⟨⟨rfl, fun s _ => takeTransition_eq_next .s0 false s⟩, ⟨rfl, fun s _ => takeTransition_eq_next .s1 false s⟩,
    ⟨rfl, fun s _ => takeTransition_eq_next .s0 false s⟩, ⟨rfl, fun s _ => takeTransition_eq_next .s2 false s⟩,
    ⟨rfl, fun s _ => takeTransition_eq_next .s2 false s⟩, fsmRun_replicate_of_silent_loop fsmBit_s0_false,
    fsmRun_replicate_of_silent_loop fsmBit_s2_true⟩

/-- The results of the single transitions of a run, in order. -/
def fsmSteps : FsmState → List Bool → List (FsmState × Bool)
  | _, [] => []
  | st, b :: bs => fsmBit st b :: fsmSteps (fsmBit st b).1 bs

/-- The matches of a run are its transitions with `m = 1`. -/
theorem fsmRun_count_eq_countP_fsmSteps (st : FsmState) (bs : List Bool) :
    (fsmRun st bs).2 = (fsmSteps st bs).countP (·.2) := by
  induction bs generalizing st with
  | nil => rfl
  | cons b bs ih =>
    rw [fsmRun_cons, fsmSteps, List.countP_cons, ih, Nat.add_comm]
    cases (fsmBit st b).2 <;> rfl

/-- How many bits of the pattern a position has behind it. -/
def patternBitsSeen : FsmState → Nat
  | .s0 => 0
  | .s1 => 1
  | .s2 => 2

/-- A bit brings the position forward by one at most, and a match uses up three. -/
theorem patternBitsSeen_fsmBit_le (st : FsmState) (b : Bool) :
    3 * (fsmBit st b).2.toNat + patternBitsSeen (fsmBit st b).1 ≤ patternBitsSeen st + 1 := by
  cases st <;> cases b <;> decide

/-- Each match of a run costs three bits, of which the position at the start may have supplied some. -/
theorem three_mul_fsmRun_count_le (st : FsmState) (bs : List Bool) :
    3 * (fsmRun st bs).2 + patternBitsSeen (fsmRun st bs).1 ≤ patternBitsSeen st + bs.length := by
  induction bs generalizing st with
  | nil => simp
  | cons b bs ih =>
    have hbit := patternBitsSeen_fsmBit_le st b
    have hrest := ih (fsmBit st b).1
    simp only [fsmRun_cons, List.length_cons]
    omega

/-- With no pattern bit before it, a sample's eight bits have room for two patterns. -/
theorem fsmRun_s0_sampleBits_count_le_two (d : Sample) : (fsmRun .s0 (sampleBits d)).2 ≤ 2 := by
  have h := three_mul_fsmRun_count_le .s0 (sampleBits d)
  rw [sampleBits_length, patternBitsSeen] at h
  omega

/-- Settles O16: the eight chained results are the steps of the run over the sample's bits. -/
theorem fsmByteStepIsEightTransitions : Obligations.FsmByteStepIsEightTransitions := by
  intro d s
  refine ⟨_, swCount s.sw.carry d, romRead (window10 s.lut.carry d), exec_process_eq_afterProcess d s, ?_⟩
  intro r7 r6 r5 r4 r3 r2 r1 r0 n
  have hn : (fsmRun s.fsm.state (sampleBits d)).2 = n := fsmRun_count_eq_countP_fsmSteps _ _
  refine ⟨?registers, ?result, ?bound, ?boundFromZero⟩
  case registers => rw [← hn, ← fsmCount_toNat]; rfl
  case result => rw [← hn]; rfl
  case bound =>
    rw [← hn, ← fsmCount_toNat]
    exact fsmCount_le_three s.fsm.state d
  case boundFromZero =>
    intro h0
    rw [← hn, h0]
    exact fsmRun_s0_sampleBits_count_le_two d

/-- From every position a sample leads to the one that goes with its two lowest bits. -/
theorem fsmRun_sampleBits_state (st : FsmState) (d : Sample) :
    (fsmRun st (sampleBits d)).1 = carryState (carryOf d) := by
  obtain ⟨c, rfl⟩ := exists_carryState_eq st
  rw [fsmRun_sampleBits]

theorem carryState_eq_s0_of_low_bit_clear {c : Carry} (h : c.getLsbD 0 = false) : carryState c = .s0 := by
  revert c; decide

/-- Settles O17: the position after the sample is `carryState` of `d[1:0]`, read off at each value. -/
theorem stateAfterASampleIsItsLowBits : Obligations.StateAfterASampleIsItsLowBits := by
  intro d s
  have hstate : (afterProcess d s).fsm.state = carryState (carryOf d) := fsmRun_sampleBits_state s.fsm.state d
  refine ⟨_, exec_process_eq_afterProcess d s, fun h => ?ones, fun h => ?zeroOne, fun h => ?lowClear⟩
  case ones => rw [hstate, carryOf, h]; rfl
  case zeroOne => rw [hstate, carryOf, h]; rfl
  case lowClear =>
    rw [hstate]
    exact carryState_eq_s0_of_low_bit_clear ((getLsbD_carryOf d 0).trans h)

theorem carryState_eq_s2_iff (a b : Bool) :
    carryState (BitVec.ofBool a ++ BitVec.ofBool b) = .s2 ↔ a = true ∧ b = true := by
  revert a b; decide

/-- After a stream from state 0 the next bit's match output compares the window that the bit closes (R112). -/
theorem fsmBit_fsmRun_s0_match (bits : List Bool) (b : Bool) :
    (fsmBit (fsmRun .s0 bits).1 b).2 = (windowClosingAt (bits ++ [b]) bits.length == Config.PATTERN) := by
  rw [fsmRun_s0, lastTwoBits, fsmBit_carryState, windowClosingAt_concat_length, ofBool_three_beq_pattern]

/-- Settles O18: from state 0 the position is the last two bits of the stream, and a match compares them, with the bit
that follows, with the pattern. -/
theorem transitionMatchesAreWindowMatches : Obligations.TransitionMatchesAreWindowMatches := by
  refine ⟨fun bits => ?position, fun bits b => ?output, fun bits => ?total⟩
  case position => rw [fsmRun_s0, lastTwoBits, carryState_eq_s2_iff]
  case output => rw [fsmBit_fsmRun_s0_match, beq_iff_eq]
  case total => rw [fsmRun_s0]

end Sys2Proof.Machine
end

section
/-! PROOFS. The sliding-window matcher: its match bits and their count (R123, R124), the byte step in natural-number
arithmetic (R126), and the first call of the construction (R129). -/

namespace Sys2Proof.Machine

/-! ### Match bits -/

/-- Bit `i` of the match vector is the match bit of the window at offset `i`, for every pattern (R123). -/
theorem getLsbD_matchVector (p : Window3) (v : Window10) {i : Nat} (hi : i ≤ 7) :
    (matchVector p v).getLsbD i = matchBit p (windowAt v i) := by
  refine BitVec.getLsbD_ofBoolListBE.trans ?_
  interval_cases i <;> rfl

/-- The ones of the match vector are the offsets that match, so its number of ones is the unit's count (R124). -/
theorem popcount_matchVector (p : Window3) (c : Carry) (d : Sample) :
    popcount (matchVector p (window10 c d)) = swMatches p c d := by
  have hoffsets : ∀ i ∈ offsets, i ≤ 7 := by decide
  exact List.countP_congr fun i hi => by rw [getLsbD_matchVector p _ (hoffsets i hi)]

/-- A match at offset `i` has ones at `V[i+1]` and `V[i+2]`, where a match at the offsets `i + 1` and `i + 2` would need
a zero (R124). -/
theorem add_three_le_of_two_matches {n : Nat} (v : BitVec n) {i j : Nat} (hij : i < j)
    (hi : matchBit Config.PATTERN (windowAt v i) = true) (hj : matchBit Config.PATTERN (windowAt v j) = true) :
    i + 3 ≤ j := by
  simp only [matchBit_windowAt, Bool.and_eq_true, Bool.not_eq_true'] at hi hj
  obtain ⟨⟨htwo, hone⟩, -⟩ := hi
  obtain ⟨-, hzero⟩ := hj
  have hne1 : j ≠ i + 1 := by
    rintro rfl
    exact absurd (hone.symm.trans hzero) (by decide)
  have hne2 : j ≠ i + 2 := by
    rintro rfl
    exact absurd (htwo.symm.trans hzero) (by decide)
  omega

/-- Settles O21: a bit of the match vector is one compare, the compare reads three bits of `V`, and the count is the
vector's number of ones. -/
theorem matchBitsCompareTheWindows : Obligations.MatchBitsCompareTheWindows := by
  refine ⟨fun v i hi => ⟨?compare, ?bits⟩, exec_swCompare, fun c d => ⟨?ones, swCount_le_three c d⟩,
    fun v i j hij hj hmi hmj => ?apart⟩
  case compare => exact getLsbD_matchVector Config.PATTERN v hi
  case bits => rw [getLsbD_matchVector _ v hi, matchBit_windowAt]
  case ones => rw [swCount_toNat, popcount_matchVector]
  case apart =>
    rw [getLsbD_matchVector _ v (by omega)] at hmi
    rw [getLsbD_matchVector _ v hj] at hmj
    exact add_three_le_of_two_matches v hij hmi hmj

/-! ### The byte step over natural numbers -/

/-- `V = 256 * carry + d` (R64, R126). -/
theorem toNat_window10 (c : Carry) (d : Sample) : (window10 c d).toNat = 256 * c.toNat + d.toNat := by
  rw [window10, BitVec.toNat_append, ← Nat.shiftLeft_add_eq_or_of_lt d.isLt, Nat.shiftLeft_eq, Nat.mul_comm]

/-- `W_i = (V >> i) mod 8`, at every width of `V` (R69, R126). -/
theorem toNat_windowAt {n : Nat} (v : BitVec n) (i : Nat) : (windowAt v i).toNat = v.toNat / 2 ^ i % 8 := by
  rw [windowAt_eq_extractLsb', BitVec.extractLsb'_toNat, Nat.shiftRight_eq_div_pow]

/-- The new carry is `d mod 4` (R72). -/
theorem carryOf_eq_ofNat_mod (d : Sample) : carryOf d = BitVec.ofNat 2 (d.toNat % 4) := by
  apply BitVec.eq_of_toNat_eq
  rw [carryOf, BitVec.extractLsb'_toNat, BitVec.toNat_ofNat, Nat.shiftRight_zero, Nat.mod_mod]

/-- The unit's count in numbers: the offsets at which `V` shifted right leaves the pattern in its low three bits
(R126). -/
theorem swMatches_eq_countP_div_mod (p : Window3) (c : Carry) (d : Sample) :
    swMatches p c d = offsets.countP fun i => (256 * c.toNat + d.toNat) / 2 ^ i % 8 == p.toNat := by
  refine List.countP_congr fun i _ => ?_
  rw [matchBit, beq_iff_eq, beq_iff_eq, ← BitVec.toNat_inj, toNat_windowAt, toNat_window10]

/-- Settles O22: the equation of `PROCESS`, with carry and count as numbers. -/
theorem swByteStepCountsTheWindows : Obligations.SwByteStepCountsTheWindows := by
  intro d s
  refine ⟨_, fsmCount s.fsm.state d, romRead (window10 s.lut.carry d), exec_process_eq_afterProcess d s, ?_⟩
  intro v n
  have hn : swMatches Config.PATTERN s.sw.carry d = n := swMatches_eq_countP_div_mod Config.PATTERN s.sw.carry d
  refine ⟨?registers, ?result⟩
  case registers => rw [← hn, ← swCount_toNat, ← carryOf_eq_ofNat_mod]; rfl
  case result => rw [← hn]; rfl

/-! ### The first call of the construction -/

/-- A sample of 0 to 3 is a carry with zeros before it (R71, R129). -/
theorem setWidth_carryOf_of_le_three {d : Sample} (h : d.toNat ≤ 3) : (carryOf d).setWidth 8 = d := by
  apply BitVec.eq_of_toNat_eq
  rw [carryOf_eq_ofNat_mod, BitVec.toNat_setWidth, BitVec.toNat_ofNat]
  omega

theorem toNat_setWidth_carry_le_three (c : Carry) : (c.setWidth 8 : Sample).toNat ≤ 3 := by
  revert c; decide

theorem swCount_eq_zero_of_le_three {d : Sample} (h : d.toNat ≤ 3) : swCount 0b00#2 d = 0#4 := by
  rw [← setWidth_carryOf_of_le_three h, swCount, swMatches_setWidth_eq_zero]
  rfl

/-- Settles O23: samples of 0 to 3 are the carries widened, and for these the first call never counts exactly where
bit 2 of the pattern is set. -/
theorem firstConstructionCallCountsNothing : Obligations.FirstConstructionCallCountsNothing := by
  refine ⟨fun d s hd hs => ?silent, fun p hp => ?counts⟩
  case silent =>
    have hcount : swCount s.sw.carry d = 0#4 := hs ▸ swCount_eq_zero_of_le_three hd
    refine ⟨_, _, _, exec_process_eq_afterProcess d s, by rw [afterProcess, hcount], ?_⟩
    show s.sw.total + (swCount s.sw.carry d).toNat = s.sw.total
    rw [hcount, BitVec.toNat_zero, Nat.add_zero]
  case counts =>
    have hset := swMatches_setWidth_eq_zero_iff p
    rw [hp] at hset
    obtain ⟨c, hc⟩ := not_forall.mp fun hzero => Bool.false_ne_true (hset.mp hzero)
    exact ⟨c.setWidth 8, toNat_setWidth_carry_le_three c, hc⟩

end Sys2Proof.Machine
end

section
/-! PROOFS. The listing of R143 against the address decoder: which entry a lookup reads (R146, R147). -/

namespace Sys2Proof.Machine

/-- In a list made of pieces of one length `n`, position `n * j + k` is position `k` of piece `j`. -/
theorem getElem?_flatMap_mul_add {α β : Type} {f : α → List β} {n : Nat} (hf : ∀ x, (f x).length = n) (l : List α)
    (j : Nat) {k : Nat} (hk : k < n) : (l.flatMap f)[n * j + k]? = l[j]?.bind fun x => (f x)[k]? := by
  induction l generalizing j with
  | nil => rfl
  | cons x l ih =>
    rw [List.flatMap_cons]
    cases j with
    | zero => simp [List.getElem?_append_left, hf, hk]
    | succ j =>
      rw [List.getElem?_append_right (by rw [hf, Nat.mul_succ]; omega), hf, List.getElem?_cons_succ, ← ih]
      congr 1
      rw [Nat.mul_succ]
      omega

/-- The sixteen entries of a row of the listing, the highest digit first. -/
def rowEntries (row : BitVec 64) : List Count := (List.range 16).map fun k => (row >>> (4 * (15 - k))).setWidth 4

theorem romListing_eq_flatMap_rowEntries : romListing = romRows.flatMap rowEntries := rfl

theorem rowEntries_length (row : BitVec 64) : (rowEntries row).length = 16 := by simp [rowEntries]

theorem getElem?_rowEntries (row : BitVec 64) {k : Nat} (hk : k < 16) :
    (rowEntries row)[k]? = some ((row >>> (4 * (15 - k))).setWidth 4) := by
  simp [rowEntries, hk]

theorem romListing_length : romListing.length = 1024 := by
  simp [romListing_eq_flatMap_rowEntries, List.length_flatMap, rowEntries_length, romRows_length]

/-- The lookup's row and digit are quotient and remainder of the address by 16. -/
theorem romRead_eq_getD_div_mod (a : Window10) :
    romRead a = (romRows.getD (a.toNat / 16) 0#64 >>> (4 * (15 - a.toNat % 16))).setWidth 4 := by
  have hrow : (a >>> 4).toNat = a.toNat / 16 := by rw [BitVec.toNat_ushiftRight, Nat.shiftRight_eq_div_pow]
  have hdigit : (a &&& 0xF#10).toNat = a.toNat % 16 :=
    (BitVec.toNat_and a 0xF#10).trans (Nat.and_two_pow_sub_one_eq_mod a.toNat 4)
  rw [romRead, hrow, hdigit]

/-- The lookup reads the entry whose index in the listing equals the address (R147). -/
theorem romListing_getElem?_toNat (a : Window10) : romListing[a.toNat]? = some (romRead a) := by
  have hrow : a.toNat / 16 < romRows.length := by
    rw [romRows_length]
    omega
  have hdigit : a.toNat % 16 < 16 := Nat.mod_lt _ (by decide)
  calc romListing[a.toNat]?
      = (romRows.flatMap rowEntries)[16 * (a.toNat / 16) + a.toNat % 16]? := by
        rw [Nat.div_add_mod, romListing_eq_flatMap_rowEntries]
    _ = (rowEntries romRows[a.toNat / 16])[a.toNat % 16]? := by
        rw [getElem?_flatMap_mul_add rowEntries_length romRows _ hdigit, List.getElem?_eq_getElem hrow,
          Option.bind_some]
    _ = some (romRead a) := by
        rw [getElem?_rowEntries _ hdigit, romRead_eq_getD_div_mod, List.getD_eq_getElem _ _ hrow]

/-- The entry at `{carry, d}` stands at index `256 * carry + d` of the listing (R146, R147). -/
theorem romListing_getElem?_carry_sample (c : Carry) (d : Sample) :
    romListing[256 * c.toNat + d.toNat]? = some (romRead (window10 c d)) := by
  rw [← toNat_window10, romListing_getElem?_toNat]

/-- Settles O28: the index of the listing is the address as a number, and the lookup only answers. -/
theorem lookupReturnsTheAddressedEntry : Obligations.LookupReturnsTheAddressedEntry :=
  ⟨romListing_length, fun c d s => ⟨_, romListing_getElem?_carry_sample c d, exec_lutLookup c d s⟩⟩

/-- Settles O29: the equation of `PROCESS`, with the entry found in the listing and the new carry as a number. -/
theorem lutByteStepReadsTheTable : Obligations.LutByteStepReadsTheTable := by
  intro d s
  refine ⟨_, _, _, _, exec_process_eq_afterProcess d s, romListing_getElem?_carry_sample s.lut.carry d, ?_, rfl⟩
  rw [← carryOf_eq_ofNat_mod, afterProcess]

/-- Settles O30: the entry read is the `SW` unit's count at the same carry, and along a stream from reset the two units
are coherent. -/
theorem lutAndSwAgreeFromEqualCarries : Obligations.LutAndSwAgreeFromEqualCarries := by
  refine ⟨fun d s hcarry => ⟨_, fsmCount s.fsm.state d, _, exec_process_eq_afterProcess d s, ?response, rfl, rfl⟩,
    fun ws => ?stream⟩
  case response => rw [afterProcess, romRead_window10, hcarry]
  case stream =>
    obtain ⟨hcarry, -, -, htotal⟩ := coherent_afterCommands_reset ws
    exact ⟨_, run_only_commands ws State.reset, hcarry.symm, htotal.symm⟩

end Sys2Proof.Machine
end

section
/-! PROOFS. What the table holds: the construction, its closed form and where it over-counts (R141, R142), and the
properties of the entries (R144). -/

namespace Sys2Proof.Machine

/-! ### The construction -/

/-- Settles O25: the entry read is the constructed one, which is the sum of the two calls. -/
theorem romHoldsTheConstructedTable : Obligations.RomHoldsTheConstructedTable := by
  intro c d s
  have hentry : (romRead (window10 c d)).toNat = constructedEntry Config.PATTERN (window10 c d) :=
    romRead_toNat_eq_constructedEntry (window10 c d)
  exact ⟨_, exec_lutLookup c d s, hentry.trans (constructedEntry_window10 Config.PATTERN c d), hentry.symm⟩

/-- In ascending address the carry field goes through its four values, 256 addresses each. -/
theorem map_windowCarry_allAddresses :
    allAddresses.map windowCarry = [0b00#2, 0b01#2, 0b10#2, 0b11#2].flatMap (List.replicate 256) := by decide +kernel

theorem countP_flatMap_replicate {α : Type} (q : α → Bool) (n : Nat) (l : List α) :
    (l.flatMap (List.replicate n)).countP q = n * l.countP q := by
  induction l with
  | nil => rfl
  | cons x l ih =>
    rw [List.flatMap_cons, List.countP_append, ih, List.countP_replicate, List.countP_cons]
    split
    · rw [Nat.mul_succ, Nat.add_comm]
    · rw [Nat.zero_add, Nat.add_zero]

/-- A property of the carry field holds at 256 addresses for each carry that has it. -/
theorem countP_windowCarry_allAddresses (q : Carry → Bool) :
    (allAddresses.countP fun a => q (windowCarry a)) = 256 * [0b00#2, 0b01#2, 0b10#2, 0b11#2].countP q := by
  have hmap : (allAddresses.countP fun a => q (windowCarry a)) = (allAddresses.map windowCarry).countP q :=
    List.countP_map.symm
  rw [hmap, map_windowCarry_allAddresses, countP_flatMap_replicate]

/-- The entry exceeds the `SW` unit's count where the construction's first call counts something, which its carry bits
decide (R142). -/
theorem swMatches_lt_constructedEntry_iff (p : Window3) (a : Window10) :
    swMatches p (windowCarry a) (windowSample a) < constructedEntry p a ↔
      0 < swMatches p 0b00#2 ((windowCarry a).setWidth 8) := by
  rw [constructedEntry_eq_swMatches_add, Nat.lt_add_left_iff_pos]

/-- The entry exceeds the `SW` unit's count at 256 addresses for each carry in which the first call counts. -/
theorem countP_overcount_allAddresses (p : Window3) :
    (allAddresses.countP fun a =>
        decide (swMatches p (windowCarry a) (windowSample a) < constructedEntry p a)) =
      256 * [0b00#2, 0b01#2, 0b10#2, 0b11#2].countP fun c => decide (0 < swMatches p 0b00#2 (c.setWidth 8)) := by
  simp only [swMatches_lt_constructedEntry_iff]
  exact countP_windowCarry_allAddresses fun c => decide (0 < swMatches p 0b00#2 (c.setWidth 8))

/-- Settles O26: the closed form is the construction's two calls; at `110` the ROM gives the second alone; the first
call's share is a matter of the four carries. -/
theorem romEntryClosedForm : Obligations.RomEntryClosedForm := by
  refine ⟨constructedEntry_eq_swMatches_add, fun a s => ?collapse, ?overcounts⟩
  case collapse => rw [decode_romAddress, exec_lutLookup, romRead_window10]
  case overcounts =>
    simp only [countP_overcount_allAddresses]
    decide

/-! ### The entries -/

/-- How many entries hold each value: a fact about 1024 constants, left to the kernel. -/
theorem countP_romRead_allAddresses :
    ((List.range 16).map fun n => allAddresses.countP fun a => romRead a == BitVec.ofNat 4 n) =
      [232, 568, 216, 8, 0, 0, 0, 0, 0, 0, 0, 0, 0, 0, 0, 0] := by decide +kernel

/-- Where the threes are, entry by entry. -/
theorem romRead_eq_three_iff (a : Window10) :
    romRead a = 3#4 ↔
      a ∈ [0x1B6#10, 0x336#10, 0x366#10, 0x36C#10, 0x36D#10, 0x36E#10, 0x376#10, 0x3B6#10] := by
  revert a; decide +kernel

/-- A lookup's answer tells the entry. -/
theorem exec_decode_romAddress_eq_iff (a : Window10) (n : Count) (s : State) :
    exec (decode (.romAddress a)) s = .next (s.respond (.entry n)) ↔ romRead a = n := by
  rw [exec_decode_romAddress]
  constructor
  · intro h
    have hresponse := congrArg State.response (Host.Outcome.next.inj h)
    exact Response.entry.inj hresponse
  · rintro rfl
    rfl

/-- The carry reaches two windows only: offset 7 reads both its bits, offset 6 the later one, and the other six windows
lie in the sample (R69). -/
theorem swMatches_eq_carry_windows_add (c : Carry) (d : Sample) :
    swMatches Config.PATTERN c d = (c.getLsbD 1 && c.getLsbD 0 && !d.getLsbD 7).toNat +
      ((c.getLsbD 0 && d.getLsbD 7 && !d.getLsbD 6).toNat + swMatches Config.PATTERN 0b00#2 d) := by
  simp [swMatches, offsets, countP_eq_sum_toNat, matchBit_windowAt, getLsbD_window10]

/-- A block of the table against block `00`: the two windows that its carry bits reach. -/
theorem romRead_toNat_eq_block_zero_add (c : Carry) (d : Sample) :
    (romRead (window10 c d)).toNat = (romRead (window10 0b00#2 d)).toNat +
      (c.getLsbD 1 && c.getLsbD 0 && !d.getLsbD 7).toNat + (c.getLsbD 0 && d.getLsbD 7 && !d.getLsbD 6).toNat := by
  rw [romRead_window10, romRead_window10, swCount_toNat, swCount_toNat, swMatches_eq_carry_windows_add]
  omega

theorem extractLsb'_six_two_eq_bits (d : Sample) :
    d.extractLsb' 6 2 = BitVec.ofBool (d.getLsbD 7) ++ BitVec.ofBool (d.getLsbD 6) := by
  rw [carry_eq_bits (d.extractLsb' 6 2), BitVec.getLsbD_extractLsb', BitVec.getLsbD_extractLsb']
  rfl

theorem romRead_block_10_eq_block_00 (x : Sample) : romRead (window10 0b10#2 x) = romRead (window10 0b00#2 x) :=
  BitVec.eq_of_toNat_eq (romRead_toNat_eq_block_zero_add 0b10#2 x)

theorem romRead_block_01_eq_block_00_add (x : Sample) :
    (romRead (window10 0b01#2 x)).toNat =
      (romRead (window10 0b00#2 x)).toNat + (x.extractLsb' 6 2 == 0b10#2).toNat := by
  have hbits : ∀ a b : Bool, (BitVec.ofBool a ++ BitVec.ofBool b == 0b10#2) = (a && !b) := by decide
  rw [extractLsb'_six_two_eq_bits, hbits]
  exact romRead_toNat_eq_block_zero_add 0b01#2 x

theorem romRead_block_11_eq_block_00_add (x : Sample) :
    (romRead (window10 0b11#2 x)).toNat =
      (romRead (window10 0b00#2 x)).toNat + (x.extractLsb' 6 2 != 0b11#2).toNat := by
  have hbits : ∀ a b : Bool,
      (BitVec.ofBool a ++ BitVec.ofBool b != 0b11#2).toNat = (!a).toNat + (a && !b).toNat := by decide
  rw [extractLsb'_six_two_eq_bits, hbits, ← Nat.add_assoc]
  exact romRead_toNat_eq_block_zero_add 0b11#2 x

/-- Settles O27: the counts, the sum and the threes are read off the listing; the blocks differ in the two windows that
reach the carry. -/
theorem romContentsHaveTheListedProperties : Obligations.RomContentsHaveTheListedProperties :=
  ⟨countP_romRead_allAddresses, sum_romRead_allAddresses,
    fun a s => (exec_decode_romAddress_eq_iff a 3#4 s).trans (romRead_eq_three_iff a), romRead_block_10_eq_block_00,
    romRead_block_01_eq_block_00_add, romRead_block_11_eq_block_00_add, romRead_toNat_eq_constructedEntry⟩

end Sys2Proof.Machine
end

section
/-! PROOFS. `RESET`: what it leaves, and how many samples after it fit totals of a finite width (R180 to R182, R190). -/

namespace Sys2Proof.Machine

/-! ### Samples after RESET at a finite width -/

/-- The three totals of a state are at most `n`. -/
abbrev TotalsAtMost (n : Nat) (s : State) : Prop := s.fsm.total ≤ n ∧ s.sw.total ≤ n ∧ s.lut.total ≤ n

theorem totalsFit_of_totalsAtMost {n w : Nat} {s : State} (h : TotalsAtMost n s) (hn : n < 2 ^ w) : TotalsFit w s := by
  obtain ⟨hfsm, hsw, hlut⟩ := h
  exact ⟨hfsm.trans_lt hn, hsw.trans_lt hn, hlut.trans_lt hn⟩

/-- A sample adds 3 to each total at most (R92). -/
theorem totalsAtMost_afterProcess {n : Nat} {s : State} (h : TotalsAtMost n s) (d : Sample) :
    TotalsAtMost (n + 3) (afterProcess d s) := by
  obtain ⟨hfsm, hsw, hlut⟩ := h
  exact ⟨Nat.add_le_add hfsm (fsmCount_le_three _ _), Nat.add_le_add hsw (swCount_le_three _ _),
    Nat.add_le_add hlut (romRead_window10_le_three _ _)⟩

theorem processAtWidth_none (d : Sample) (s : State) : processAtWidth none d s = .next (afterProcess d s) :=
  exec_process_eq_afterProcess d s

theorem feed_cons_of_next {width : Option Nat} {d : Sample} {s t : State} (h : processAtWidth width d s = .next t)
    (ds : List Sample) : feed width (d :: ds) s = feed width ds t := by
  rw [feed, h]

/-- While three per sample, on top of what the totals hold already, fits the width, the samples run as they do with
unbounded totals (R88, R190). -/
theorem exists_feed_of_totalsAtMost {w n : Nat} {s : State} (ds : List Sample) (hs : TotalsAtMost n s)
    (hfit : n + 3 * ds.length < 2 ^ w) :
    ∃ t, feed (some w) ds s = .next t ∧ feed none ds s = .next t ∧ TotalsAtMost (n + 3 * ds.length) t := by
  induction ds generalizing n s with
  | nil => exact ⟨s, rfl, rfl, hs⟩
  | cons d ds ih =>
    have hd : TotalsAtMost (n + 3) (afterProcess d s) := totalsAtMost_afterProcess hs d
    have hlength : n + 3 * (d :: ds).length = n + 3 + 3 * ds.length := by
      rw [List.length_cons]
      omega
    rw [hlength] at hfit ⊢
    have hfinite : processAtWidth (some w) d s = .next (afterProcess d s) := by
      rw [processAtWidth_some, if_pos (totalsFit_of_totalsAtMost hd (by omega))]
    rw [feed_cons_of_next hfinite, feed_cons_of_next (processAtWidth_none d s)]
    exact ih hd hfit

theorem totalsAtMost_zero_reset : TotalsAtMost 0 State.reset := ⟨le_rfl, le_rfl, le_rfl⟩

/-- Settles O36: from totals of 0, the bound on the samples is the bound on three per sample. -/
theorem samplesAreSafeBeforeOverflow : Obligations.SamplesAreSafeBeforeOverflow := by
  intro w ds hlength
  have hpos : 0 < 2 ^ w := Nat.two_pow_pos w
  have hfit : 0 + 3 * ds.length < 2 ^ w := by omega
  simpa only [Nat.zero_add] using exists_feed_of_totalsAtMost ds totalsAtMost_zero_reset hfit

/-! ### RESET -/

/-- Settles O5: the equation of `RESET`, whose registers do not depend on the state before. -/
theorem resetConstructsTheUnits : Obligations.ResetConstructsTheUnits :=
  ⟨fun s => ⟨_, exec_reset s, rfl, rfl, rfl, rfl, rfl, rfl, rfl⟩, exec_reset State.reset⟩

/-- The reset input selects `RESET` whatever the `CMD` word presented with it (R181). -/
theorem step_reset (s : State) (w : CmdWord) (es : List Event) :
    step (s.setPending (.present (.bus true w) :: es)) = .next (State.reset.setPending es) := by
  rw [step_present, decode_bus_reset, exec_reset, State.setPending_pending]

/-- Settles O7: the equation of a step with the reset input asserted, in which the `CMD` word does not occur. -/
theorem resetOverridesTheCommand : Obligations.ResetOverridesTheCommand := step_reset

/-- Settles O8: both machines stand in one state after the first step, so the rest of their runs is the same run. -/
theorem resetForgetsTheEarlierStream : Obligations.ResetForgetsTheEarlierStream := by
  intro s s' w w' es k
  calc run (k + 1) (s.setPending (.present (.bus true w) :: es))
      = run k (State.reset.setPending es) := run_succ_of_next k (step_reset s w es)
    _ = run (k + 1) (s'.setPending (.present (.bus true w') :: es)) := (run_succ_of_next k (step_reset s' w' es)).symm

end Sys2Proof.Machine
end

section
/-! PROOFS. Decoder and encoder as inverses, at the decode points and over whole bytes (R60 to R75). -/

namespace Sys2Proof.Machine

/-! ### At the decode points -/

theorem windowSample_window10 (c : Carry) (d : Sample) : windowSample (window10 c d) = d := by
  apply BitVec.eq_of_getLsbD_eq
  intro k hk
  rw [windowSample, BitVec.getLsbD_extractLsb', getLsbD_window10]
  simp [hk]

theorem decode_encode (i : Instr) : decode (encode i) = i := by
  cases i with
  | process d => exact decode_bus_valid d
  | idle => exact decode_bus_idle 0#8
  | lutLookup c d =>
    show decode (.romAddress (window10 c d)) = .lutLookup c d
    rw [decode_romAddress, windowCarry_window10, windowSample_window10]
  | reservedFsmt b => exact decode_fsmt_reserved b
  | reset | total | name | t00 | t01 | t10 | t11 | t20 | t21 | swCompare => rfl

/-- A `CMD` word is its two fields (R68). -/
theorem exists_eq_cmdWord (w : CmdWord) : ∃ valid data, w = cmdWord valid data := by
  refine ⟨w.getLsbD 8, w.extractLsb' 0 8, ?_⟩
  revert w; decide

theorem encode_decode_fsmt (w : FsmtWord) : encode (decode (.fsmt w)) = .fsmt w := by revert w; decide

/-- The encoder gives every encoding back, but for the bits that nobody reads: the data of an idle `CMD`, and the whole
`CMD` presented with `RESET` (R75, R83, R181). -/
theorem encode_decode (e : Encoding) :
    encode (decode e) = e ∨ (∃ x, e = .bus false (cmdWord false x)) ∨ ∃ w, e = .bus true w := by
  cases e with
  | bus rst w =>
    cases rst with
    | true => exact .inr (.inr ⟨w, rfl⟩)
    | false =>
      obtain ⟨valid, data, rfl⟩ := exists_eq_cmdWord w
      cases valid with
      | true => rw [decode_bus_valid]; exact .inl rfl
      | false => exact .inr (.inl ⟨data, rfl⟩)
  | fsmt w => exact .inl (encode_decode_fsmt w)
  | romAddress a => exact .inl (congrArg Encoding.romAddress (window10_windowCarry_windowSample a))
  | totalPort | namePort | window => exact .inl rfl

/-! ### Over whole bytes -/

theorem bytesOfNat_length (k n : Nat) : (bytesOfNat k n).length = k := by
  induction k generalizing n with
  | zero => rfl
  | succ k ih => rw [bytesOfNat, List.length_cons, ih]

theorem natOfBytes_bytesOfNat {k n : Nat} (h : n < 256 ^ k) : natOfBytes (bytesOfNat k n) = n := by
  induction k generalizing n with
  | zero => exact (Nat.lt_one_iff.mp h).symm
  | succ k ih =>
    have hrest : n / 256 < 256 ^ k := Nat.div_lt_of_lt_mul (by rwa [Nat.pow_succ'] at h)
    rw [bytesOfNat, natOfBytes, ih hrest, BitVec.toNat_ofNat]
    exact Nat.mod_add_div n 256

theorem bytesOfNat_natOfBytes (bs : List (BitVec 8)) : bytesOfNat bs.length (natOfBytes bs) = bs := by
  induction bs with
  | nil => rfl
  | cons b bs ih =>
    have hlow : BitVec.ofNat 8 (b.toNat + 256 * natOfBytes bs) = b := by
      apply BitVec.eq_of_toNat_eq
      rw [BitVec.toNat_ofNat]
      omega
    have hrest : (b.toNat + 256 * natOfBytes bs) / 256 = natOfBytes bs := by omega
    rw [natOfBytes, List.length_cons, bytesOfNat, hlow, hrest, ih]

theorem two_pow_width_le_bytes (f : Format) : 2 ^ f.width ≤ 256 ^ f.bytes := by cases f <;> decide

/-- Format and word tell the encoding: no two decode points share a format (R60). -/
theorem word_eq_some_iff (e : Encoding) (f : Format) (n : Nat) :
    e.word = some (f, n) ↔ n < 2 ^ f.width ∧ encodingOfNat f n = e := by
  constructor
  · intro h
    cases e with
    | bus rst w =>
      cases rst with
      | true => cases h
      | false => cases h; exact ⟨w.isLt, by simp [encodingOfNat]⟩
    | fsmt w | window w | romAddress w => cases h; exact ⟨w.isLt, by simp [encodingOfNat]⟩
    | totalPort | namePort => cases h
  · rintro ⟨hn, rfl⟩
    cases f <;> simpa [encodingOfNat, Encoding.word, Format.width] using hn

theorem encodingOfBytes_eq_ok_iff (f : Format) (bs : List (BitVec 8)) (e : Encoding) :
    encodingOfBytes f bs = .ok e ↔
      bs.length = f.bytes ∧ natOfBytes bs < 2 ^ f.width ∧ encodingOfNat f (natOfBytes bs) = e := by
  unfold encodingOfBytes
  split
  · next hlength => simp [hlength]
  · next hlength =>
    split
    · next hwidth => simp [Nat.not_lt.mpr hwidth]
    · next hwidth => simp [not_not.mp hlength, Nat.lt_of_not_le hwidth]

/-- The bytes that hold an encoding are the bytes of its word. -/
theorem encodingOfBytes_eq_ok_iff_word (f : Format) (bs : List (BitVec 8)) (e : Encoding) :
    encodingOfBytes f bs = .ok e ↔ ∃ n, e.word = some (f, n) ∧ bs = bytesOfNat f.bytes n := by
  rw [encodingOfBytes_eq_ok_iff]
  constructor
  · rintro ⟨hlength, hword⟩
    refine ⟨natOfBytes bs, (word_eq_some_iff e f _).mpr hword, ?_⟩
    rw [← hlength, bytesOfNat_natOfBytes]
  · rintro ⟨n, hword, rfl⟩
    have ⟨hn, _⟩ := (word_eq_some_iff e f n).mp hword
    rw [natOfBytes_bytesOfNat (hn.trans_le (two_pow_width_le_bytes f))]
    exact ⟨bytesOfNat_length _ _, (word_eq_some_iff e f n).mp hword⟩

theorem decodeBytes_eq_ok_iff (f : Format) (bs : List (BitVec 8)) (i : Instr) :
    decodeBytes f bs = .ok i ↔ ∃ e, encodingOfBytes f bs = .ok e ∧ decode e = i := by
  unfold decodeBytes
  cases encodingOfBytes f bs <;> simp

theorem encodeBytes_eq_some_iff (i : Instr) (f : Format) (bs : List (BitVec 8)) :
    encodeBytes i = some (f, bs) ↔ encodingOfBytes f bs = .ok (encode i) := by
  rw [encodingOfBytes_eq_ok_iff_word]
  unfold encodeBytes
  cases hword : (encode i).word with
  | none => simp
  | some fn =>
    obtain ⟨g, n⟩ := fn
    constructor
    · intro h
      cases h
      exact ⟨n, rfl, rfl⟩
    · rintro ⟨m, hm, rfl⟩
      cases hm
      rfl

/-- The bytes of an idle `CMD` word: its data, and a clear valid bit above it (R68). -/
theorem bytes_of_idle_word {f : Format} {bs : List (BitVec 8)} {x : Sample}
    (h : encodingOfBytes f bs = .ok (.bus false (cmdWord false x))) : f = .cmd ∧ bs = [x, 0x00#8] := by
  obtain ⟨n, hword, rfl⟩ := (encodingOfBytes_eq_ok_iff_word _ _ _).mp h
  cases hword
  refine ⟨rfl, ?_⟩
  revert x; decide

/-- Settles O3: bytes hold an encoding exactly when they spell its word, so the byte coders agree where the coders at
the decode points do; the exceptions there are `RESET`, which has no bytes, and the data of `IDLE`. -/
theorem decodeInvertsEncode : Obligations.DecodeInvertsEncode := by
  refine ⟨decode_encode, fun i f bs h => ?read, fun f bs i h => ?written⟩
  case read => exact (decodeBytes_eq_ok_iff f bs i).mpr ⟨_, (encodeBytes_eq_some_iff i f bs).mp h, decode_encode i⟩
  case written =>
    obtain ⟨e, he, rfl⟩ := (decodeBytes_eq_ok_iff f bs i).mp h
    obtain hback | ⟨x, rfl⟩ | ⟨w, rfl⟩ := encode_decode e
    · exact .inl ((encodeBytes_eq_some_iff _ f bs).mpr (by rw [hback, he]))
    · obtain ⟨hf, hbs⟩ := bytes_of_idle_word he
      exact .inr ⟨decode_bus_idle x, hf, x, hbs⟩
    · obtain ⟨n, hword, -⟩ := (encodingOfBytes_eq_ok_iff_word f bs _).mp he
      cases hword

/-- Settles O2: each word is evaluated through the byte decoder. -/
theorem encodedWordsDecode : Obligations.EncodedWordsDecode :=
  ⟨rfl, rfl, rfl, rfl, rfl, rfl, rfl, rfl⟩

end Sys2Proof.Machine
end

section
/-! PROOFS. What each instruction can do, said once, and what follows for steps, totals and frames (R23, R25, R27, R66,
R73, R166, R168). -/

namespace Sys2Proof.Machine

/-! ### A step and its instruction -/

/-- A step with an event in front runs the instruction that the event's encoding decodes to. -/
theorem step_setPending_cons (s : State) (e : Event) (es : List Event) :
    step (s.setPending (e :: es)) = exec (decode (eventEncoding s.fsm.state e)) (s.setPending es) := rfl

/-- With nothing pending the block idles (R83, R172). -/
theorem step_nothing_pending {s : State} (h : s.pending = []) : step s = exec .idle s := by
  rw [step, fetch_nothing_pending h, decode_bus_idle]

/-- Settles O4: the fetch of an event in front, and of an idle bus. -/
theorem stepRunsTheDecodedInstruction : Obligations.StepRunsTheDecodedInstruction :=
  ⟨step_present, fun s b es => step_setPending_cons s (.bit b) es, fun _ => step_nothing_pending⟩

/-! ### The effects of the instructions -/

/-- The six transitions (R101 to R106). -/
abbrev transitionInstrs : List Instr := [.t00, .t01, .t10, .t11, .t20, .t21]

/-- What an instruction can do: construct the units, process a sample, take one transition of unit `FSM`, only answer,
or be refused. -/
inductive Effect : Instr → Prop
  | reset : Effect .reset
  | process (d : Sample) : Effect (.process d)
  | transition {i : Instr} (mem : i ∈ transitionInstrs) (target : FsmState) (m : Bool)
      (run : ∀ s, exec i s = takeTransition target m s) : Effect i
  | answer {i : Instr} (run : ∀ s, ∃ r, exec i s = .next (s.respond r)) : Effect i
  | refused (b : Bool) : Effect (.reservedFsmt b)

theorem effect (i : Instr) : Effect i := by
  cases i with
  | reset => exact .reset
  | process d => exact .process d
  | idle => exact .answer fun s => ⟨_, exec_idle s⟩
  | total u => exact .answer fun s => ⟨_, exec_total u s⟩
  | name u => exact .answer fun s => ⟨_, exec_name u s⟩
  | swCompare w => exact .answer fun s => ⟨_, exec_swCompare w s⟩
  | lutLookup c d => exact .answer fun s => ⟨_, exec_lutLookup c d s⟩
  | t00 => exact .transition (by decide) _ _ exec_t00
  | t01 => exact .transition (by decide) _ _ exec_t01
  | t10 => exact .transition (by decide) _ _ exec_t10
  | t11 => exact .transition (by decide) _ _ exec_t11
  | t20 => exact .transition (by decide) _ _ exec_t20
  | t21 => exact .transition (by decide) _ _ exec_t21
  | reservedFsmt b => exact .refused b

/-- Every operation of the block completes and leaves the events still to come; the reserved code is refused (R73,
R74). -/
theorem exec_completes_or_refuses (i : Instr) (s : State) :
    (∃ t, exec i s = .next t ∧ t.pending = s.pending) ∨
      (i.wellFormed = false ∧ exec i s = .refused .reservedState) := by
  cases effect i with
  | reset => exact .inl ⟨_, exec_reset s, rfl⟩
  | process d => exact .inl ⟨_, exec_process_eq_afterProcess d s, rfl⟩
  | transition _ target m run => exact .inl ⟨_, run s, rfl⟩
  | answer run =>
    obtain ⟨r, hr⟩ := run s
    exact .inl ⟨_, hr, rfl⟩
  | refused b => exact .inr ⟨rfl, exec_reservedFsmt b s⟩

theorem pending_of_exec_next {i : Instr} {s t : State} (h : exec i s = .next t) : t.pending = s.pending := by
  obtain ⟨t', ht, hpending⟩ | ⟨-, hrefused⟩ := exec_completes_or_refuses i s
  · cases ht.symm.trans h
    exact hpending
  · cases hrefused.symm.trans h

theorem exec_ne_fault (i : Instr) (s : State) (r : Fault) : exec i s ≠ .fault r := by
  intro h
  obtain ⟨t, ht, -⟩ | ⟨-, hrefused⟩ := exec_completes_or_refuses i s
  · cases ht.symm.trans h
  · cases hrefused.symm.trans h

theorem refusal_of_exec_refused {i : Instr} {s : State} {r : Refusal} (h : exec i s = .refused r) :
    r = .reservedState ∧ i.wellFormed = false := by
  obtain ⟨t, ht, -⟩ | ⟨hwf, hrefused⟩ := exec_completes_or_refuses i s
  · cases ht.symm.trans h
  · cases hrefused.symm.trans h
    exact ⟨rfl, hwf⟩

/-! ### Which events complete -/

theorem wellFormed_decodeCmd (w : CmdWord) : (decodeCmd w).wellFormed = true := by
  unfold decodeCmd
  split <;> rfl

/-- An `FSMT` value is an operation of the block exactly when its code is one of the three states (R73, R74). -/
theorem wellFormed_decodeFsmt (w : FsmtWord) : (decodeFsmt w).wellFormed = (decodeState (fsmtState w)).isSome := by
  revert w; decide

/-- The `FSMT` value of a `BIT` line holds the unit's own state (R66). -/
@[simp] theorem decodeState_fsmtState_fsmtWord (st : FsmState) (b : Bool) :
    decodeState (fsmtState (fsmtWord st b)) = some st := by
  cases st <;> cases b <;> rfl

theorem wellFormed_of_acceptable {e : Event} (h : acceptable e = true) (st : FsmState) :
    (decode (eventEncoding st e)).wellFormed = true := by
  cases e with
  | bit b =>
    show (decodeFsmt (fsmtWord st b)).wellFormed = true
    rw [wellFormed_decodeFsmt, decodeState_fsmtState_fsmtWord, Option.isSome_some]
  | present e =>
    cases e with
    | bus rst w =>
      cases rst with
      | true => rfl
      | false => exact wellFormed_decodeCmd w
    | fsmt w => exact (wellFormed_decodeFsmt w).trans h
    | totalPort | namePort | window | romAddress => rfl

/-- Settles O43: an acceptable event decodes to an operation of the block, and of those each completes. -/
theorem acceptableEventsComplete : Obligations.AcceptableEventsComplete := by
  refine ⟨fun s e es he => ?completes, fun s r => exec_ne_fault _ _ r, fun i s r => refusal_of_exec_refused⟩
  case completes =>
    have hwf := wellFormed_of_acceptable he s.fsm.state
    obtain hnext | ⟨hill, -⟩ := exec_completes_or_refuses (decode (eventEncoding s.fsm.state e)) (s.setPending es)
    · exact hnext
    · rw [hwf] at hill
      cases hill

/-! ### Frames and totals -/

/-- `PROCESS` and `RESET` write the three units; a transition writes `FSM.STATE`; nothing else writes a register. -/
theorem exec_next_frame {i : Instr} {s t : State} (h : exec i s = .next t) :
    (i = .reset ∨ ∃ d, i = .process d) ∨
      (t.sw = s.sw ∧ t.lut = s.lut ∧ t.fsm.total = s.fsm.total ∧ (t.fsm = s.fsm ∨ i ∈ transitionInstrs)) := by
  cases effect i with
  | reset => exact .inl (.inl rfl)
  | process d => exact .inl (.inr ⟨d, rfl⟩)
  | transition mem target m run =>
    obtain ⟨-, htotal, hsw, hlut, -, -⟩ := takeTransition_next ((run s).symm.trans h)
    exact .inr ⟨hsw, hlut, htotal, .inr mem⟩
  | answer run =>
    obtain ⟨r, hr⟩ := run s
    cases hr.symm.trans h
    exact .inr ⟨rfl, rfl, rfl, .inl rfl⟩
  | refused b => cases h

/-- Settles O45: `exec_next_frame`, register by register. -/
theorem instructionsWriteOnlyTheirRegisters : Obligations.InstructionsWriteOnlyTheirRegisters := by
  refine ⟨fun i s t => pending_of_exec_next, fun i s t h hne => ?units, fun i s t h hne => ?fsm,
    fun i s t h hne => ?total⟩
  case units =>
    obtain hi | ⟨hsw, hlut, -, -⟩ := exec_next_frame h
    · exact hi
    · exact absurd hne (not_or.mpr ⟨not_not.mpr hsw, not_not.mpr hlut⟩)
  case fsm =>
    obtain (hi | hi) | ⟨-, -, -, hfsm | hi⟩ := exec_next_frame h
    · exact .inl hi
    · exact .inr (.inl hi)
    · exact absurd hfsm hne
    · exact .inr (.inr hi)
  case total =>
    obtain hi | ⟨-, -, htotal, -⟩ := exec_next_frame h
    · exact hi
    · exact absurd htotal hne

/-- `PROCESS` is selected by a valid `CMD` with the reset input released, and by nothing else (R73). -/
theorem eq_command_of_decode_eq_process {st : FsmState} {e : Event} {d : Sample}
    (h : decode (eventEncoding st e) = .process d) : e = command (cmdWord true d) := by
  have hback := encode_decode (eventEncoding st e)
  rw [h] at hback
  obtain he | ⟨x, he⟩ | ⟨w, he⟩ := hback
  · cases e with
    | present e => exact congrArg Event.present he.symm
    | bit b => cases he
  · rw [he, decode_bus_idle] at h
    cases h
  · rw [he] at h
    cases h

/-- Settles O44: only `RESET` and `PROCESS` write a total, only their own events select them, and a count is at most
3. -/
theorem totalsAreWrittenByProcessAndResetOnly : Obligations.TotalsAreWrittenByProcessAndResetOnly := by
  refine ⟨fun s t e es h hne => ?writers, fun d s => ⟨_, _, _, _, exec_process_eq_afterProcess d s, rfl,
    fsmCount_le_three _ _, swCount_le_three _ _, romRead_window10_le_three _ _, rfl, rfl, rfl⟩,
    fun s => ⟨_, exec_reset s, rfl, rfl, rfl⟩⟩
  case writers =>
    rw [step_setPending_cons] at h
    obtain (hreset | ⟨d, hd⟩) | ⟨hsw, hlut, htotal, -⟩ := exec_next_frame h
    · exact .inl (Bool.of_not_eq_false fun he => decode_eventEncoding_ne_reset he _ hreset)
    · exact .inr ⟨d, eq_command_of_decode_eq_process hd⟩
    · rw [hsw, hlut, htotal] at hne
      simp at hne

end Sys2Proof.Machine
end

section
/-! PROOFS. The operations of the block (R86): what each does to the three units, and that no unit reaches another
(R20, R38). -/

namespace Sys2Proof.Machine

/-- An operation of the block constructs the units, processes one sample, or only answers; which of these is told by
the event alone. -/
theorem step_contractEvent {e : Event} (h : contractEvent e = true) :
    (∀ (s : State) es, step (s.setPending (e :: es)) = .next (State.reset.setPending es)) ∨
    (∃ d, ∀ (s : State) es, step (s.setPending (e :: es)) = .next ((afterProcess d s).setPending es)) ∨
    (∀ (s : State) es, ∃ r, step (s.setPending (e :: es)) = .next ((s.respond r).setPending es)) := by
  cases e with
  | bit b => cases h
  | present e =>
    cases e with
    | fsmt | window | romAddress => cases h
    | totalPort u => exact .inr (.inr fun s es => ⟨_, step_present s (.totalPort u) es⟩)
    | namePort u => exact .inr (.inr fun s es => ⟨_, step_present s (.namePort u) es⟩)
    | bus rst w =>
      cases rst with
      | true => exact .inl fun s es => step_reset s w es
      | false =>
        cases hw : sampleOf w with
        | none => exact .inr (.inr fun s es => ⟨_, afterCommand_of_idle hw s ▸ step_command w es s⟩)
        | some d => exact .inr (.inl ⟨d, fun s es => afterCommand_of_sample hw s ▸ step_command w es s⟩)

/-! ### Coherence -/

/-- Settles O42: it is where the invariant of a stream begins. -/
theorem resetIsCoherent : Obligations.ResetIsCoherent := coherentAfter_reset.1

/-- Settles O41: the reset state is coherent, a sample keeps the units coherent, and an answer leaves the registers. -/
theorem contractEventsKeepCoherence : Obligations.ContractEventsKeepCoherence := by
  intro s e es hs he
  obtain hreset | ⟨d, hd⟩ | hanswer := step_contractEvent he
  · exact ⟨_, hreset s es, resetIsCoherent, rfl⟩
  · exact ⟨_, hd s es, coherent_afterProcess hs d, rfl⟩
  · obtain ⟨r, hr⟩ := hanswer s es
    exact ⟨_, hr, hs, rfl⟩

/-! ### Independence of the units -/

/-- From `s` and `s'` the machines went to `t` and `t'`, and each unit on which they agreed they still agree on. -/
def KeepsUnitAgreement (s s' t t' : State) : Prop :=
  (s.fsm = s'.fsm → t.fsm = t'.fsm) ∧ (s.sw = s'.sw → t.sw = t'.sw) ∧ (s.lut = s'.lut → t.lut = t'.lut)

theorem KeepsUnitAgreement.trans {s s' t t' u u' : State} (h : KeepsUnitAgreement s s' t t')
    (k : KeepsUnitAgreement t t' u u') : KeepsUnitAgreement s s' u u' := by
  obtain ⟨hfsm, hsw, hlut⟩ := h
  obtain ⟨kfsm, ksw, klut⟩ := k
  exact ⟨kfsm ∘ hfsm, ksw ∘ hsw, klut ∘ hlut⟩

/-- Each unit's byte step reads that unit's registers and the sample only. -/
theorem keepsUnitAgreement_afterProcess (d : Sample) (s s' : State) :
    KeepsUnitAgreement s s' (afterProcess d s) (afterProcess d s') := by
  refine ⟨fun hfsm => ?_, fun hsw => ?_, fun hlut => ?_⟩
  · rw [afterProcess, afterProcess, hfsm]
  · rw [afterProcess, afterProcess, hsw]
  · rw [afterProcess, afterProcess, hlut]

/-- One operation of the block keeps the agreement of two machines, unit by unit. -/
theorem step_contractEvent_keepsUnitAgreement {e : Event} (h : contractEvent e = true) (s s' : State)
    (es : List Event) :
    ∃ t t', step (s.setPending (e :: es)) = .next (t.setPending es) ∧
      step (s'.setPending (e :: es)) = .next (t'.setPending es) ∧ KeepsUnitAgreement s s' t t' := by
  obtain hreset | ⟨d, hd⟩ | hanswer := step_contractEvent h
  · exact ⟨_, _, hreset s es, hreset s' es, fun _ => rfl, fun _ => rfl, fun _ => rfl⟩
  · exact ⟨_, _, hd s es, hd s' es, keepsUnitAgreement_afterProcess d s s'⟩
  · obtain ⟨r, hr⟩ := hanswer s es
    obtain ⟨r', hr'⟩ := hanswer s' es
    exact ⟨_, _, hr, hr', id, id, id⟩

theorem run_contractEvents_keepsUnitAgreement (es : List Event) (h : ∀ e ∈ es, contractEvent e = true) (s s' : State) :
    ∃ t t', run es.length (s.setPending es) = .next t ∧ run es.length (s'.setPending es) = .next t' ∧
      KeepsUnitAgreement s s' t t' := by
  induction es generalizing s s' with
  | nil => exact ⟨_, _, rfl, rfl, id, id, id⟩
  | cons e es ih =>
    obtain ⟨he, hes⟩ := List.forall_mem_cons.mp h
    obtain ⟨t, t', ht, ht', hstep⟩ := step_contractEvent_keepsUnitAgreement he s s' es
    obtain ⟨u, u', hu, hu', hrest⟩ := ih hes t t'
    exact ⟨u, u', (run_succ_of_next _ ht).trans hu, (run_succ_of_next _ ht').trans hu', hstep.trans hrest⟩

/-- Settles O46: every operation keeps the agreement unit by unit, so any run of them does; a result of `PROCESS` is a
count over its own unit's register. -/
theorem unitsAreIndependent : Obligations.UnitsAreIndependent := by
  refine ⟨run_contractEvents_keepsUnitAgreement, fun d s s' => ⟨_, _, _, _, _, _, _, _,
    exec_process_eq_afterProcess d s, exec_process_eq_afterProcess d s', rfl, rfl, ?fsm, ?sw, ?lut⟩⟩
  case fsm => intro hfsm; rw [hfsm]
  case sw => intro hsw; rw [hsw]
  case lut => intro hlut; rw [hlut]

end Sys2Proof.Machine
end

section
/-! PROOFS. Single transitions and `BIT` lines of unit `FSM` against its byte step (R66, R75, R100, R106 to R108). -/

namespace Sys2Proof.Machine

/-! ### One match per `T20` -/

/-- Only a zero in state 2 closes the pattern (R106). -/
theorem fsmBit_match_iff (st : FsmState) (b : Bool) : (fsmBit st b).2 = true ↔ st = .s2 ∧ b = false := by
  cases st <;> cases b <;> decide

/-- A zero met in state 2 adds one match to a run, which goes on from state 0 (R106). -/
theorem fsmRun_append_match {st : FsmState} {bs : List Bool} (h : (fsmRun st bs).1 = .s2) (cs : List Bool) :
    fsmRun st (bs ++ false :: cs) = ((fsmRun .s0 cs).1, (fsmRun st bs).2 + 1 + (fsmRun .s0 cs).2) := by
  rw [fsmRun_append, h, fsmRun_cons, fsmBit_s2_false, Nat.add_assoc]
  rfl

/-- Settles O13: `T20` by its equation, inside a run by the run's, and `PROCESS` returns and adds the run's matches. -/
theorem matchTransitionRecordsOneMatch : Obligations.MatchTransitionRecordsOneMatch :=
  ⟨⟨rfl, fun s _ => takeTransition_eq_next .s0 true s⟩, fsmBit_match_iff, fun _ cs _ h => fsmRun_append_match h cs,
    fun d s => ⟨_, _, _, _, exec_process_eq_afterProcess d s, rfl, fsmCount_toNat s.fsm.state d, rfl⟩⟩

/-! ### A transition and a `BIT` line -/

/-- A transition is `FsmBit` of the state and the bit in its own word (R66, R107). -/
theorem exec_decode_fsmt {w : FsmtWord} {st : FsmState} (h : decodeState (fsmtState w) = some st) (s : State) :
    exec (decode (.fsmt w)) s = takeTransition (fsmBit st (w.getLsbD 0)).1 (fsmBit st (w.getLsbD 0)).2 s := by
  show exec (decodeFsmt w) s = _
  rw [decodeFsmt, h]
  cases st <;> cases w.getLsbD 0 <;> rfl

/-- Settles O14: the equation of the transition that the word decodes to. -/
theorem transitionActsOnItsOwnWord : Obligations.TransitionActsOnItsOwnWord := by
  intro s w st hw
  rw [exec_decode_fsmt hw, takeTransition_eq_next]

theorem getLsbD_fsmtWord_zero (st : FsmState) (b : Bool) : (fsmtWord st b).getLsbD 0 = b := by
  cases st <;> cases b <;> rfl

/-- The state that a `BIT b` line leaves: unit `FSM` takes one transition. -/
def afterBit (b : Bool) (s : State) : State :=
  (s.setFsm { state := (fsmBit s.fsm.state b).1, total := s.fsm.total }).respond
    (.transition (fsmBit s.fsm.state b).2)

theorem step_bit (s : State) (b : Bool) (es : List Event) :
    step (s.setPending (.bit b :: es)) = .next ((afterBit b s).setPending es) := by
  rw [step_setPending_cons, eventEncoding, exec_decode_fsmt (decodeState_fsmtState_fsmtWord s.fsm.state b),
    getLsbD_fsmtWord_zero]
  rfl

/-- Settles O15: the transition of the word made of `FSM.STATE` and the bit. -/
theorem bitEventAppliesFsmBit : Obligations.BitEventAppliesFsmBit := step_bit

/-! ### A run of `BIT` lines -/

/-- `BIT` lines take unit `FSM` where the automaton's run ends, output the matches of that run, and leave `FSM.TOTAL`
and the other two units alone. -/
theorem run_bits (bs : List Bool) (es : List Event) (s : State) :
    ∃ u, run bs.length (s.setPending (bs.map .bit ++ es)) = .next u ∧
      matchesOutput bs.length (s.setPending (bs.map .bit ++ es)) = (fsmRun s.fsm.state bs).2 ∧
      u.fsm = { state := (fsmRun s.fsm.state bs).1, total := s.fsm.total } ∧ u.sw = s.sw ∧ u.lut = s.lut ∧
      u.pending = es := by
  induction bs generalizing s with
  | nil => exact ⟨_, rfl, rfl, rfl, rfl, rfl, rfl⟩
  | cons b bs ih =>
    have hstep : step (s.setPending ((b :: bs).map .bit ++ es)) =
        .next ((afterBit b s).setPending (bs.map .bit ++ es)) :=
      step_bit s b _
    obtain ⟨u, hrun, hmatches, hfsm, hsw, hlut, hpending⟩ := ih (afterBit b s)
    refine ⟨u, (run_succ_of_next _ hstep).trans hrun, ?_, hfsm, hsw, hlut, hpending⟩
    rw [List.length_cons, matchesOutput_succ_of_next _ hstep, hmatches, fsmRun_cons]
    simp [afterBit]

/-- Settles O19: the eight lines run the automaton over the bits that `PROCESS` runs it over. -/
theorem eightBitEventsRefineProcess : Obligations.EightBitEventsRefineProcess := by
  intro s d es
  obtain ⟨u, hrun, hmatches, hfsm, hsw, hlut, hpending⟩ := run_bits (sampleBits d) es s
  rw [sampleBits_length] at hrun hmatches
  rw [← fsmCount_toNat] at hmatches
  exact ⟨_, u, _, _, _, exec_process_eq_afterProcess d s, rfl, hrun, by rw [hfsm]; rfl, hmatches, rfl, by rw [hfsm],
    hsw, hlut, hpending⟩

end Sys2Proof.Machine
end

section
/-! PROOFS. The bitstream: where each bit of a sample stands in it, and what a cut costs (R8, R41, R186). -/

namespace Sys2Proof.Machine

/-! ### Positions -/

/-- Bit 7 of a sample comes first (R8). -/
theorem getElem?_sampleBits (d : Sample) {i : Nat} (hi : i ≤ 7) : (sampleBits d)[7 - i]? = some (d.getLsbD i) := by
  interval_cases i <;> rfl

/-- Each sample takes eight places of the stream (R41). -/
theorem getElem?_streamBits {ds : List Sample} {j i : Nat} {d : Sample} (hd : ds[j]? = some d) (hi : i ≤ 7) :
    (streamBits ds)[8 * j + (7 - i)]? = some (d.getLsbD i) := by
  rw [streamBits, getElem?_flatMap_mul_add sampleBits_length ds j (by omega), hd, Option.bind_some,
    getElem?_sampleBits d hi]

/-- Stream bit `k` stands behind the two virtual zeros (R8). -/
theorem streamBit_add_two {bits : List Bool} {k : Nat} {b : Bool} (h : bits[k]? = some b) :
    streamBit bits (k + 2) = b := by
  simp [streamBit, h]

/-- Settles O31: the place of a bit in the stream, counted from the first bit and from the virtual zeros. -/
theorem streamIsMostSignificantBitFirst : Obligations.StreamIsMostSignificantBitFirst :=
  ⟨fun _ _ _ _ hd hi => ⟨getElem?_streamBits hd hi, streamBit_add_two (getElem?_streamBits hd hi)⟩,
    fun _ => ⟨rfl, rfl⟩⟩

/-! ### Cuts -/

/-- The further the automaton stands in the pattern, the more matches it records, and never more than one beyond what
state 0 gives: a one brings the positions together or one step on, and a zero brings them all to state 0. -/
theorem fsmRun_count_positions (bs : List Bool) :
    (fsmRun .s0 bs).2 ≤ (fsmRun .s1 bs).2 ∧ (fsmRun .s1 bs).2 ≤ (fsmRun .s2 bs).2 ∧
      (fsmRun .s2 bs).2 ≤ (fsmRun .s0 bs).2 + 1 := by
  induction bs with
  | nil => decide
  | cons b bs ih =>
    cases b with
    | false =>
      simp only [fsmRun_cons, fsmBit_s0_false, fsmBit_s1_false, fsmBit_s2_false, Bool.toNat_true, Bool.toNat_false]
      omega
    | true =>
      simp only [fsmRun_cons, fsmBit_s0_true, fsmBit_s1_true, fsmBit_s2_true, Bool.toNat_false]
      omega

theorem fsmRun_count_le_s0_add_one (st : FsmState) (bs : List Bool) :
    (fsmRun .s0 bs).2 ≤ (fsmRun st bs).2 ∧ (fsmRun st bs).2 ≤ (fsmRun .s0 bs).2 + 1 := by
  obtain ⟨h01, h12, h20⟩ := fsmRun_count_positions bs
  cases st with
  | s0 => exact ⟨le_rfl, Nat.le_succ _⟩
  | s1 => exact ⟨h01, h12.trans h20⟩
  | s2 => exact ⟨h01.trans h12, h20⟩

/-- The second piece of a stream counts on from where the first has put the automaton. -/
theorem referenceCount_append (ds es : List Sample) :
    referenceCount (ds ++ es) = referenceCount ds + (fsmRun (fsmRun .s0 (streamBits ds)).1 (streamBits es)).2 := by
  rw [referenceCount_eq_fsmRun, streamBits_append, fsmRun_append, ← referenceCount_eq_fsmRun]

/-- Settles O32: counted apart, the second piece starts from state 0 and not from where the first has ended. -/
theorem splittingAStreamLosesTheStraddlingMatch : Obligations.SplittingAStreamLosesTheStraddlingMatch := by
  refine ⟨fun ds es => ?_, by decide⟩
  obtain ⟨hle, hge⟩ := fsmRun_count_le_s0_add_one (fsmRun .s0 (streamBits ds)).1 (streamBits es)
  rw [← referenceCount_eq_fsmRun] at hle hge
  rw [referenceCount_append]
  omega

end Sys2Proof.Machine
end
